-- ==== Sys2Proof/Config.lean ====
section
/-! DEFINITION. What an implementation of the BITS decoder fixes (R7). The wire-format constants of R6 are no parameters:
they stand as numerals where the formats are (Word.lean names each). POSW, ACCW, MAX_DEPTH and VALW are unbounded (D8, D9,
D10, D22), so they have no constant; TREE_REPR and the state codes stay symbolic (D19, D25). -/

namespace Sys2Proof.Config

/-- MAX_CHARS: the longest line the block accepts; `none` is unbounded, the spec's default (R7, D7).
DESIGN CHOICE (log entry 5): the spec leaves it OPEN and gives this default. Unsafe for a claim about an
implementation with a finite MAX_CHARS; the operation that starts a run takes it as an argument. -/
def maxChars : Option Nat := none

end Sys2Proof.Config
end

