-- ==== Sys2Proof/Word.lean ====
section
/-! DEFINITION. The words of the BITS decoder: one bit of the bit sequence, a character code, and the fixed-width
fields of the packet formats (R6, R7, R11). Counters and values are natural numbers (D8, D9, D22). -/

namespace Sys2Proof

/-- One cell of the bit sequence, "single-bit values (0/1)" (R23); `true` is 1. -/
abbrev Bit := Bool

/-- One input character code, CHARW = 8 bits (R7, R21, D2). -/
abbrev CharCode := BitVec 8

/-- The value of a hex digit (NIBBLE = 4) and the payload of a literal group (GROUPW = 4) (R6, R81, R84). -/
abbrev Nibble := BitVec 4

/-- The `version` field, VERW = 3 (R6, R83). -/
abbrev Version := BitVec 3

/-- The `type_id` field, TYPEW = 3 (R6, R83). LITERAL_TYPE is the value 4. -/
abbrev TypeId := BitVec 3

/-- A one-bit control flag: `continue_flag` (CFLAGW = 1) or `length_type_id` (LTIDW = 1) (R6, R28). -/
abbrev Flag := BitVec 1

/-- The `total_length_bits` field of format OP.L, TLENW = 15 (R6, R87). -/
abbrev LengthField := BitVec 15

/-- The `subpacket_count` field of format OP.C, SCNTW = 11 (R6, R88). -/
abbrev CountField := BitVec 11

end Sys2Proof
end

