-- ==== Sys2Proof/Syntax.lean ====
section
/-! DEFINITION. The instructions of the BITS decoder, one constructor per row of spec/opcode_table.json (R89): the 22
input characters of the outer text encoding (R81) and the 15 packet forms of the inner bit encoding (R84, R87, R88). -/

namespace Sys2Proof

/-- The instructions. A character has no operand. A literal carries its version and the payloads of its groups, first
group first (R84). An operator carries its version and its prefix value: `total_length_bits` in form .L (R87),
`subpacket_count` in form .C (R88). The subpackets are instructions of their own, which follow in the bits. -/
inductive Instr where
  /-- The character `0`, code 0x30 (R81). -/
  | hex0
  /-- The character `1`, code 0x31 (R81). -/
  | hex1
  /-- The character `2`, code 0x32 (R81). -/
  | hex2
  /-- The character `3`, code 0x33 (R81). -/
  | hex3
  /-- The character `4`, code 0x34 (R81). -/
  | hex4
  /-- The character `5`, code 0x35 (R81). -/
  | hex5
  /-- The character `6`, code 0x36 (R81). -/
  | hex6
  /-- The character `7`, code 0x37 (R81). -/
  | hex7
  /-- The character `8`, code 0x38 (R81). -/
  | hex8
  /-- The character `9`, code 0x39 (R81). -/
  | hex9
  /-- The character `A`, code 0x41 (R81). -/
  | hexUpperA
  /-- The character `B`, code 0x42 (R81). -/
  | hexUpperB
  /-- The character `C`, code 0x43 (R81). -/
  | hexUpperC
  /-- The character `D`, code 0x44 (R81). -/
  | hexUpperD
  /-- The character `E`, code 0x45 (R81). -/
  | hexUpperE
  /-- The character `F`, code 0x46 (R81). -/
  | hexUpperF
  /-- The character `a`, code 0x61 (R81). -/
  | hexLowerA
  /-- The character `b`, code 0x62 (R81). -/
  | hexLowerB
  /-- The character `c`, code 0x63 (R81). -/
  | hexLowerC
  /-- The character `d`, code 0x64 (R81). -/
  | hexLowerD
  /-- The character `e`, code 0x65 (R81). -/
  | hexLowerE
  /-- The character `f`, code 0x66 (R81). -/
  | hexLowerF
  /-- LIT, `type_id` 4 (R84, R170). -/
  | lit (version : Version) (groups : List Nibble)
  /-- SUM with a total length, `type_id` 0, `length_type_id` 0 (R87, R171). -/
  | sumL (version : Version) (total : LengthField)
  /-- SUM with a subpacket count, `type_id` 0, `length_type_id` 1 (R88, R171). -/
  | sumC (version : Version) (count : CountField)
  /-- PRODUCT with a total length, `type_id` 1, `length_type_id` 0 (R87, R172). -/
  | productL (version : Version) (total : LengthField)
  /-- PRODUCT with a subpacket count, `type_id` 1, `length_type_id` 1 (R88, R172). -/
  | productC (version : Version) (count : CountField)
  /-- MINIMUM with a total length, `type_id` 2, `length_type_id` 0 (R87, R173). -/
  | minimumL (version : Version) (total : LengthField)
  /-- MINIMUM with a subpacket count, `type_id` 2, `length_type_id` 1 (R88, R173). -/
  | minimumC (version : Version) (count : CountField)
  /-- MAXIMUM with a total length, `type_id` 3, `length_type_id` 0 (R87, R174). -/
  | maximumL (version : Version) (total : LengthField)
  /-- MAXIMUM with a subpacket count, `type_id` 3, `length_type_id` 1 (R88, R174). -/
  | maximumC (version : Version) (count : CountField)
  /-- GT with a total length, `type_id` 5, `length_type_id` 0 (R87, R175). -/
  | gtL (version : Version) (total : LengthField)
  /-- GT with a subpacket count, `type_id` 5, `length_type_id` 1 (R88, R175). -/
  | gtC (version : Version) (count : CountField)
  /-- LT with a total length, `type_id` 6, `length_type_id` 0 (R87, R176). -/
  | ltL (version : Version) (total : LengthField)
  /-- LT with a subpacket count, `type_id` 6, `length_type_id` 1 (R88, R176). -/
  | ltC (version : Version) (count : CountField)
  /-- EQ with a total length, `type_id` 7, `length_type_id` 0 (R87, R177). -/
  | eqL (version : Version) (total : LengthField)
  /-- EQ with a subpacket count, `type_id` 7, `length_type_id` 1 (R88, R177). -/
  | eqC (version : Version) (count : CountField)
deriving DecidableEq, Repr

/-- The four formats of the opcode table (R89): a character of the line, a literal, an operator with a total length, an
operator with a subpacket count. -/
inductive Format where
  | hexChar
  | lit
  | opL
  | opC
deriving DecidableEq, Repr

end Sys2Proof
end

