-- ==== Sys2Proof/WellFormed.lean ====
section
/-! DEFINITION. Which instruction terms are well formed. Every operand's range is its type, so one check is left: a
literal has at least one group (R84, C2). -/

namespace Sys2Proof

/-- An instruction the encoding can express: a literal has `g >= 1` groups (R84); nothing else can go wrong. -/
def Instr.wellFormed : Instr → Bool
  | .lit _ groups => !groups.isEmpty
  | .hex0 | .hex1 | .hex2 | .hex3 | .hex4 | .hex5 | .hex6 | .hex7 | .hex8 | .hex9 | .hexUpperA
  | .hexUpperB | .hexUpperC | .hexUpperD | .hexUpperE | .hexUpperF | .hexLowerA | .hexLowerB
  | .hexLowerC | .hexLowerD | .hexLowerE | .hexLowerF => true
  | .sumL _ _ | .sumC _ _ => true
  | .productL _ _ | .productC _ _ => true
  | .minimumL _ _ | .minimumC _ _ => true
  | .maximumL _ _ | .maximumC _ _ => true
  | .gtL _ _ | .gtC _ _ => true
  | .ltL _ _ | .ltC _ _ => true
  | .eqL _ _ | .eqC _ _ => true

end Sys2Proof
end

