-- ==== Sys2Proof/Decode.lean ====
section
/-! DEFINITION. Decoding and encoding. Two code spaces (R60): a character code of the line stands for one of the 22
character instructions (R81), and the bits of the decoded line stand for packets (R83 to R88). Decoding is total and
refuses by name; the encoder after it is written from the same tables (R97 gives it as a reading aid: it is no function
of the hardware). -/

namespace Sys2Proof

/-! ## Bit order (R11, R61, R62) -/

/-- `be(b_0, …, b_{n-1})`: the unsigned big-endian value of a bit list, 0 for the empty list (R11). -/
def be (bs : List Bit) : Nat := bs.foldl (fun acc b => 2 * acc + b.toNat) 0

/-- The `w` low bits of `v`, most significant first: the inverse of `be` on `w` bits (R61). -/
def bitsOf : Nat → Nat → List Bit
  | 0, _ => []
  | w + 1, v => v.testBit w :: bitsOf w v

/-- A field of width `w` made of the bits `bs`, most significant first (R62). -/
def fieldOf (w : Nat) (bs : List Bit) : BitVec w := BitVec.ofNat w (be bs)

/-- The bits of a field, most significant first (R61). -/
def fieldBits {w : Nat} (v : BitVec w) : List Bit := bitsOf w v.toNat

/-! ## The characters (R81, R110, R111) -/

/-- HEXVAL(c): the value of a hex digit, or none where the code is invalid (R110). The code values are ASCII, G1. -/
def hexVal (c : CharCode) : Option Nibble :=
  if 0x30 ≤ c.toNat ∧ c.toNat ≤ 0x39 then some (BitVec.ofNat 4 (c.toNat - 0x30))
  else if 0x41 ≤ c.toNat ∧ c.toNat ≤ 0x46 then some (BitVec.ofNat 4 (c.toNat - 0x41 + 10))
  else if 0x61 ≤ c.toNat ∧ c.toNat ≤ 0x66 then some (BitVec.ofNat 4 (c.toNat - 0x61 + 10))
  else none

/-- EXPAND(v): the four bits of a digit's value, most significant first (R111). -/
def expand (v : Nibble) : List Bit := fieldBits v

/-- The character table of R81: each valid code with its instruction. -/
def charTable : List (CharCode × Instr) :=
  [(0x30, .hex0), (0x31, .hex1), (0x32, .hex2), (0x33, .hex3), (0x34, .hex4), (0x35, .hex5),
   (0x36, .hex6), (0x37, .hex7), (0x38, .hex8), (0x39, .hex9), (0x41, .hexUpperA), (0x42, .hexUpperB),
   (0x43, .hexUpperC), (0x44, .hexUpperD), (0x45, .hexUpperE), (0x46, .hexUpperF), (0x61, .hexLowerA),
   (0x62, .hexLowerB), (0x63, .hexLowerC), (0x64, .hexLowerD), (0x65, .hexLowerE), (0x66, .hexLowerF)]

/-- Why a code is no instruction: the reject names of the decoder. -/
inductive DecodeError where
  /-- The character is none of the 22 of R81; the machine raises MalformedHex for it (R112). -/
  | notHexDigit (code : CharCode)
  /-- A field of `requested` bits starts where only `remaining` bits are left; the machine raises UnexpectedEof (R123). -/
  | endOfBits (requested remaining : Nat)
  /-- `type_id` 4 where an operator is asked for: the literal type has no operator form (R86, R89). -/
  | literalType
deriving DecidableEq, Repr

/-- The instruction of a character code (R81), refused by name where there is none. -/
def decodeChar (c : CharCode) : Except DecodeError Instr :=
  match charTable.find? (fun row => row.1 = c) with
  | some row => .ok row.2
  | none => .error (.notHexDigit c)

/-! ## The packets (R83 to R90) -/

/-- Take a field of width `w` off the front of the unread bits (R98). -/
def takeField (w : Nat) (bs : List Bit) : Except DecodeError (BitVec w × List Bit) :=
  if bs.length < w then .error (.endOfBits w bs.length) else .ok (fieldOf w (bs.take w), bs.drop w)

/-- The groups of a literal: 5 bits each, read until a group whose flag is 0 (R84). -/
def decodeGroups : List Bit → Except DecodeError (List Nibble × List Bit)
  | flag :: b3 :: b2 :: b1 :: b0 :: rest =>
    if flag then
      match decodeGroups rest with
      | .ok (gs, rest') => .ok (fieldOf 4 [b3, b2, b1, b0] :: gs, rest')
      | .error e => .error e
    else .ok ([fieldOf 4 [b3, b2, b1, b0]], rest)
  | [] => .error (.endOfBits 1 0)
  | _ :: rest => .error (.endOfBits 4 rest.length)

/-- The operator of type `t` in form OP.L (R87, R89); none for the literal type. -/
def opLInstr (t : TypeId) (v : Version) (n : LengthField) : Option Instr :=
  match t.toNat with
  | 0 => some (.sumL v n)
  | 1 => some (.productL v n)
  | 2 => some (.minimumL v n)
  | 3 => some (.maximumL v n)
  | 5 => some (.gtL v n)
  | 6 => some (.ltL v n)
  | 7 => some (.eqL v n)
  | _ => none

/-- The operator of type `t` in form OP.C (R88, R89); none for the literal type. -/
def opCInstr (t : TypeId) (v : Version) (c : CountField) : Option Instr :=
  match t.toNat with
  | 0 => some (.sumC v c)
  | 1 => some (.productC v c)
  | 2 => some (.minimumC v c)
  | 3 => some (.maximumC v c)
  | 5 => some (.gtC v c)
  | 6 => some (.ltC v c)
  | 7 => some (.eqC v c)
  | _ => none

/-- Turn a missing operator into its reject name. -/
def orLiteralType (i : Option Instr) (rest : List Bit) : Except DecodeError (Instr × List Bit) :=
  match i with
  | some i => .ok (i, rest)
  | none => .error .literalType

/-- The rest of an OP.L prefix: `total_length_bits` (R87). -/
def decodeOpL (v : Version) (t : TypeId) (bs : List Bit) : Except DecodeError (Instr × List Bit) :=
  match takeField 15 bs with
  | .ok (n, rest) => orLiteralType (opLInstr t v n) rest
  | .error e => .error e

/-- The rest of an OP.C prefix: `subpacket_count` (R88). -/
def decodeOpC (v : Version) (t : TypeId) (bs : List Bit) : Except DecodeError (Instr × List Bit) :=
  match takeField 11 bs with
  | .ok (c, rest) => orLiteralType (opCInstr t v c) rest
  | .error e => .error e

/-- The rest of an operator's prefix after its header: `length_type_id` selects the form (R86). -/
def decodeOperator (v : Version) (t : TypeId) (bs : List Bit) : Except DecodeError (Instr × List Bit) :=
  match takeField 1 bs with
  | .ok (i, rest) => if i = 0 then decodeOpL v t rest else decodeOpC v t rest
  | .error e => .error e

/-- The rest of a literal after its header (R84). -/
def decodeLiteral (v : Version) (bs : List Bit) : Except DecodeError (Instr × List Bit) :=
  match decodeGroups bs with
  | .ok (gs, rest) => .ok (.lit v gs, rest)
  | .error e => .error e

/-- The packet instruction at the front of the unread bits, and the bits after it (R83 to R90). An operator's
instruction is its prefix: its subpackets are the packets that follow. -/
def decodeBits (bs : List Bit) : Except DecodeError (Instr × List Bit) :=
  match takeField 3 bs with
  | .error e => .error e
  | .ok (v, bs1) =>
    match takeField 3 bs1 with
    | .error e => .error e
    | .ok (t, bs2) => if t = 4 then decodeLiteral v bs2 else decodeOperator v t bs2

/-- A code in one of the two code spaces (R60). -/
inductive Code where
  /-- A character code of the input line. -/
  | char (c : CharCode)
  /-- Bits of the decoded line. -/
  | bits (bs : List Bit)
deriving DecidableEq, Repr

/-- The decoder: total on every code of either space, with the bits it leaves over (none in the character space). -/
def decode : Code → Except DecodeError (Instr × List Bit)
  | .char c =>
    match decodeChar c with
    | .ok i => .ok (i, [])
    | .error e => .error e
  | .bits bs => decodeBits bs

/-! ## The encoder (R97) -/

/-- The 6 bits of a header (R83). -/
def headerBits (v : Version) (t : TypeId) : List Bit := fieldBits v ++ fieldBits t

/-- The groups of a literal, flag 1 in every group but the last (R84). -/
def groupBits : List Nibble → List Bit
  | [] => []
  | [g] => false :: fieldBits g
  | g :: g' :: gs => true :: fieldBits g ++ groupBits (g' :: gs)

/-- A literal packet (R84). -/
def litBits (v : Version) (gs : List Nibble) : List Bit := headerBits v 4 ++ groupBits gs

/-- The prefix of an OP.L packet (R87). -/
def opLBits (t : TypeId) (v : Version) (n : LengthField) : List Bit := headerBits v t ++ false :: fieldBits n

/-- The prefix of an OP.C packet (R88). -/
def opCBits (t : TypeId) (v : Version) (c : CountField) : List Bit := headerBits v t ++ true :: fieldBits c

/-- The code of an instruction, in the space its row belongs to (R81, R84, R87, R88). -/
def encode : Instr → Code
  | .hex0 => .char 0x30
  | .hex1 => .char 0x31
  | .hex2 => .char 0x32
  | .hex3 => .char 0x33
  | .hex4 => .char 0x34
  | .hex5 => .char 0x35
  | .hex6 => .char 0x36
  | .hex7 => .char 0x37
  | .hex8 => .char 0x38
  | .hex9 => .char 0x39
  | .hexUpperA => .char 0x41
  | .hexUpperB => .char 0x42
  | .hexUpperC => .char 0x43
  | .hexUpperD => .char 0x44
  | .hexUpperE => .char 0x45
  | .hexUpperF => .char 0x46
  | .hexLowerA => .char 0x61
  | .hexLowerB => .char 0x62
  | .hexLowerC => .char 0x63
  | .hexLowerD => .char 0x64
  | .hexLowerE => .char 0x65
  | .hexLowerF => .char 0x66
  | .lit v gs => .bits (litBits v gs)
  | .sumL v n => .bits (opLBits 0 v n)
  | .sumC v c => .bits (opCBits 0 v c)
  | .productL v n => .bits (opLBits 1 v n)
  | .productC v c => .bits (opCBits 1 v c)
  | .minimumL v n => .bits (opLBits 2 v n)
  | .minimumC v c => .bits (opCBits 2 v c)
  | .maximumL v n => .bits (opLBits 3 v n)
  | .maximumC v c => .bits (opCBits 3 v c)
  | .gtL v n => .bits (opLBits 5 v n)
  | .gtC v c => .bits (opCBits 5 v c)
  | .ltL v n => .bits (opLBits 6 v n)
  | .ltC v c => .bits (opCBits 6 v c)
  | .eqL v n => .bits (opLBits 7 v n)
  | .eqC v c => .bits (opCBits 7 v c)

/-! ## Views of an instruction (R89) -/

/-- The format of the instruction's row (R89). -/
def Instr.format : Instr → Format
  | .hex0 | .hex1 | .hex2 | .hex3 | .hex4 | .hex5 | .hex6 | .hex7 | .hex8 | .hex9 | .hexUpperA
  | .hexUpperB | .hexUpperC | .hexUpperD | .hexUpperE | .hexUpperF | .hexLowerA | .hexLowerB
  | .hexLowerC | .hexLowerD | .hexLowerE | .hexLowerF => .hexChar
  | .lit _ _ => .lit
  | .sumL _ _ => .opL
  | .sumC _ _ => .opC
  | .productL _ _ => .opL
  | .productC _ _ => .opC
  | .minimumL _ _ => .opL
  | .minimumC _ _ => .opC
  | .maximumL _ _ => .opL
  | .maximumC _ _ => .opC
  | .gtL _ _ => .opL
  | .gtC _ _ => .opC
  | .ltL _ _ => .opL
  | .ltC _ _ => .opC
  | .eqL _ _ => .opL
  | .eqC _ _ => .opC

/-- The `version` of a packet instruction; none for a character. -/
def Instr.version : Instr → Option Version
  | .hex0 | .hex1 | .hex2 | .hex3 | .hex4 | .hex5 | .hex6 | .hex7 | .hex8 | .hex9 | .hexUpperA
  | .hexUpperB | .hexUpperC | .hexUpperD | .hexUpperE | .hexUpperF | .hexLowerA | .hexLowerB
  | .hexLowerC | .hexLowerD | .hexLowerE | .hexLowerF => none
  | .lit v _ => some v
  | .sumL v _ | .sumC v _ => some v
  | .productL v _ | .productC v _ => some v
  | .minimumL v _ | .minimumC v _ => some v
  | .maximumL v _ | .maximumC v _ => some v
  | .gtL v _ | .gtC v _ => some v
  | .ltL v _ | .ltC v _ => some v
  | .eqL v _ | .eqC v _ => some v

/-- The `type_id` of a packet instruction (R89); none for a character. -/
def Instr.typeId : Instr → Option TypeId
  | .hex0 | .hex1 | .hex2 | .hex3 | .hex4 | .hex5 | .hex6 | .hex7 | .hex8 | .hex9 | .hexUpperA
  | .hexUpperB | .hexUpperC | .hexUpperD | .hexUpperE | .hexUpperF | .hexLowerA | .hexLowerB
  | .hexLowerC | .hexLowerD | .hexLowerE | .hexLowerF => none
  | .lit _ _ => some 4
  | .sumL _ _ | .sumC _ _ => some 0
  | .productL _ _ | .productC _ _ => some 1
  | .minimumL _ _ | .minimumC _ _ => some 2
  | .maximumL _ _ | .maximumC _ _ => some 3
  | .gtL _ _ | .gtC _ _ => some 5
  | .ltL _ _ | .ltC _ _ => some 6
  | .eqL _ _ | .eqC _ _ => some 7

/-- The prefix value of an operator: `total_length_bits` or `subpacket_count`, which its frame keeps as `limit` (R30);
none for the other formats. -/
def Instr.limit : Instr → Option Nat
  | .hex0 | .hex1 | .hex2 | .hex3 | .hex4 | .hex5 | .hex6 | .hex7 | .hex8 | .hex9 | .hexUpperA
  | .hexUpperB | .hexUpperC | .hexUpperD | .hexUpperE | .hexUpperF | .hexLowerA | .hexLowerB
  | .hexLowerC | .hexLowerD | .hexLowerE | .hexLowerF => none
  | .lit _ _ => none
  | .sumL _ n => some n.toNat
  | .sumC _ c => some c.toNat
  | .productL _ n => some n.toNat
  | .productC _ c => some c.toNat
  | .minimumL _ n => some n.toNat
  | .minimumC _ c => some c.toNat
  | .maximumL _ n => some n.toNat
  | .maximumC _ c => some c.toNat
  | .gtL _ n => some n.toNat
  | .gtC _ c => some c.toNat
  | .ltL _ n => some n.toNat
  | .ltC _ c => some c.toNat
  | .eqL _ n => some n.toNat
  | .eqC _ c => some c.toNat

/-- How many bits of its space an instruction takes (R90): a character 8, a literal `6 + 5*g`, an OP.L prefix 22, an
OP.C prefix 18. -/
def Instr.length : Instr → Nat
  | .hex0 | .hex1 | .hex2 | .hex3 | .hex4 | .hex5 | .hex6 | .hex7 | .hex8 | .hex9 | .hexUpperA
  | .hexUpperB | .hexUpperC | .hexUpperD | .hexUpperE | .hexUpperF | .hexLowerA | .hexLowerB
  | .hexLowerC | .hexLowerD | .hexLowerE | .hexLowerF => 8
  | .lit _ groups => 6 + 5 * groups.length
  | .sumL _ _ => 22
  | .sumC _ _ => 18
  | .productL _ _ => 22
  | .productC _ _ => 18
  | .minimumL _ _ => 22
  | .minimumC _ _ => 18
  | .maximumL _ _ => 22
  | .maximumC _ _ => 18
  | .gtL _ _ => 22
  | .gtC _ _ => 18
  | .ltL _ _ => 22
  | .ltC _ _ => 18
  | .eqL _ _ => 22
  | .eqC _ _ => 18

/-! ## The words of spec/opcode_table.json -/

/-- The code a number of the opcode table stands for. The table numbers a character over its 8 bits, a literal over the
6 bits `VVVTTT` and an operator over the 7 bits `VVVTTTI`, the last bit of each being bit 0, and does not number the bits
after these, which are 0. A number alone does not say which of the three it is. DESIGN CHOICE (log entry 8): 8 bits that
are one of the 22 character codes are the character; the number 4 in 8 bits is the literal header of version 0; every
other number below 128 is an operator's 7 bits. Packet codes are laid out to the longest prefix, 22 bits. -/
def tableCode (nbits w : Nat) : Option Code :=
  if nbits ≤ 8 ∧ w < 256 ∧ (hexVal (BitVec.ofNat 8 w)).isSome then some (.char (BitVec.ofNat 8 w))
  else if nbits ≤ 8 ∧ w = 4 then some (.bits (bitsOf 6 w ++ List.replicate 16 false))
  else if w < 128 then some (.bits (bitsOf 7 w ++ List.replicate 15 false))
  else none

/-- The instruction the decoder reads from a word of spec/opcode_table.json (`tableCode`). -/
def decodeTableWord (nbits w : Nat) : Option Instr :=
  match tableCode nbits w with
  | some code => match decode code with
    | .ok (i, _) => some i
    | .error _ => none
  | none => none

end Sys2Proof
end

