-- ==== Sys2Proof/Machine/State.lean ====
section
/-! DEFINITION. The state of the BITS decoder as plain data: every register of R20 with its width, the packet value (R33),
the frame (R30), the fault records (R200, R207), the reasons a model step can stop, and the state after RESET (R41). -/

namespace Sys2Proof.Machine

/-! ## The packet value (R33) -/

mutual
/-- A packet: `version`, `type_id` and a body, which is a literal value or a sequence of subpackets (R33). -/
inductive Packet where
  /-- `Packet{version, type_id, Literal(value)}`. -/
  | literal (version : Version) (typeId : TypeId) (value : Nat)
  /-- `Packet{version, type_id, Operator(subs)}`. -/
  | operator (version : Version) (typeId : TypeId) (subs : Packets)
deriving DecidableEq, Repr

/-- A finite sequence of packets in bit order: the subpackets of an operator (R33, R153). -/
inductive Packets where
  | nil
  | cons (head : Packet) (tail : Packets)
deriving DecidableEq, Repr
end

/-! ## Sequencing and frames -/

/-- ST: the twelve symbolic states (R26). Their numeric codes are OPEN (D25), so there are none here. -/
inductive ParserState where
  | idle
  | loading
  | readingHeader
  | readingLiteralGroup
  | readingLengthTypeFlag
  | readingTotalLengthPrefix
  | parsingSubpacketsByLength
  | readingSubpacketCount
  | parsingSubpacketsByCount
  | done
  | parseOk
  | faulted
deriving DecidableEq, Repr

/-- The `mode` of a frame (R30). -/
inductive Mode where
  | byLength
  | byCount
deriving DecidableEq, Repr

/-- A frame: one operator packet whose subpackets are still being parsed (R30). -/
structure Frame where
  /-- The operator's `version`. -/
  ver : Version
  /-- The operator's `type_id`, never 4. -/
  tid : TypeId
  /-- Which length type the operator has. -/
  mode : Mode
  /-- POS at the moment the frame was made. -/
  mark : Nat
  /-- `total_length_bits` or `subpacket_count`. -/
  limit : Nat
  /-- The subpackets completed so far, in the order parsed. -/
  kids : Packets
deriving DecidableEq, Repr

/-! ## Fault records -/

/-- A fault record: one constructor per kind of R200, with the payload fields of R201 to R206 (R207). The first three are
raised by the front end into FAULT, the last three by the Evaluator into EFAULT. -/
inductive FaultRecord where
  /-- A character that is no hex digit: the code as received and its 0-based index (R201, D3, D4). -/
  | malformedHex (char : CharCode) (index : Nat)
  /-- A read of more bits than remain, with the position it was asked at (R202, D13, D18). -/
  | unexpectedEof (requested remaining pos : Nat)
  /-- Subpackets that took more bits than declared (R203). -/
  | overconsumedSubpackets (expected actual pos : Nat)
  /-- An Operator body with `type_id` 4: no line produces it (R204). -/
  | invalidTypeId (typeId : TypeId)
  /-- PRODUCT, MINIMUM or MAXIMUM of no subpackets (R205). -/
  | emptySubpackets (typeId : TypeId)
  /-- A comparison without exactly two subpackets (R206). -/
  | wrongArity (typeId : TypeId) (count : Nat)
deriving DecidableEq, Repr

/-! ## Memory -/

/-- BITMEM: (bit address, bit) pairs, addresses strictly rising. An unlisted address holds no valid bit (R23, R41). -/
abbrev Memory := List (Nat × Bit)

/-! ## The host's side -/

/-- A host action presented at the block's ports (R40, R233). -/
inductive HostCommand where
  /-- RESET (R230). -/
  | reset
  /-- START with a line (R231). -/
  | start (line : List CharCode)
deriving DecidableEq, Repr

/-! ## The state -/

/-- The complete state of the block (R20), one field per register of the spec, and the host action that waits at the
ports (`request`, the model's own field: log entry 3). -/
structure State where
  /-- IN: the input line (R21). -/
  input : List CharCode
  /-- CI: index of the next character to decode (R22). -/
  ci : Nat
  /-- BITMEM: the decoded bit sequence (R23). -/
  bitmem : Memory
  /-- LEN: number of valid bits once decoding is complete (R24). -/
  len : Nat
  /-- POS: index of the next unread bit, the block's program counter (R25). -/
  pos : Nat
  /-- ST: the state register (R26). -/
  st : ParserState
  /-- VER: `version` of the packet whose header was read last (R27). -/
  ver : Version
  /-- TID: `type_id` of that packet (R27). -/
  tid : TypeId
  /-- CFLAG: `continue_flag` of the group read last (R28). -/
  cflag : Flag
  /-- LTID: `length_type_id` read last (R28). -/
  ltid : Flag
  /-- ACC: the literal value assembled so far (R29). -/
  acc : Nat
  /-- STACK: the frames of the operators still open, newest first (R31). -/
  stack : List Frame
  /-- RET: the packet just completed (R32). -/
  ret : Option Packet
  /-- ROOT: the finished tree (R35). -/
  root : Option Packet
  /-- FAULT: the front-end fault that ended the line (R37). -/
  fault : Option FaultRecord
  /-- VSUM: the version sum of ROOT (R38). -/
  vsum : Option Nat
  /-- VALUE: the evaluated value of ROOT (R38). -/
  value : Option Nat
  /-- EFAULT: the fault that ended the evaluation (R38). -/
  efault : Option FaultRecord
  /-- The host action that waits at the ports, taken by the next step (model's own field, log entry 3). -/
  request : Option HostCommand
deriving DecidableEq, Repr

/-- The state after RESET, the "after RESET" column of R41. VER, TID, CFLAG, LTID and ACC are "unspecified" there:
DESIGN CHOICE 0 (log entry 1; unsafe, a claim must not rest on it). No host action waits (log entry 3). -/
def State.reset : State where
  input := []
  ci := 0
  bitmem := []
  len := 0
  pos := 0
  st := .idle
  ver := 0
  tid := 0
  cflag := 0
  ltid := 0
  acc := 0
  stack := []
  ret := none
  root := none
  fault := none
  vsum := none
  value := none
  efault := none
  request := none

/-! ## Why a model step can stop

The six faults of the spec are not among these: raising one is a next state (R210). -/

/-- A machine fault: the step needs a piece of state that is not there. No run of the block reaches one (R70, R150). -/
inductive Fault where
  /-- A read of a bit below LEN that nothing has written: raised by the cursor's read. Safe: "a bit must have been
  written before it is read" (R70), and the model supplies no value. -/
  | unwrittenBit
  /-- `top` of an empty STACK: raised by the two ParsingSubpackets transitions (R150 f). Safe: the model stops. -/
  | emptyStack
  /-- Done without a packet in RET: raised by the Done transition (R32). Safe: the model stops. -/
  | noReturnPacket
  /-- ParseOk without a packet in ROOT: raised by the back end (R35). Safe: the model stops. -/
  | noRootPacket
deriving DecidableEq, Repr

/-- A refusal: the model has no transition here. -/
inductive Refusal where
  /-- An instruction of the table without a meaning yet: raised by `exec`'s arm for it. Safe. -/
  | notModelled (mnemonic : String)
  /-- No step is enabled: Idle, Faulted, or ParseOk once its results are set (R157, R232). Raised by the sequencing
  step and the back end. Safe: the states stay as they are until START or RESET. -/
  | halted
  /-- An instruction asked to act in a state that is not on its own path (R145; log entry 4). Raised by the meanings;
  `step` never answers it. Safe. -/
  | outOfSequence
  /-- A literal without a group in the state that reads one (R84). Raised by the literal's meaning; the decoder never
  gives such an instruction. Safe. -/
  | illFormed
  /-- CONSUMED_SINCE with a mark ahead of POS: outside the contract (R126, U6; for the other marks outside it, log entry 10).
  Raised by the cursor. Safe. -/
  | markAheadOfPos
  /-- START while a run is in progress: outside the contract (R231, U7). Raised by the host action. Safe. -/
  | startWhileBusy
  /-- A line longer than a finite MAX_CHARS: not accepted by START (R244, U5). Raised by the host action. Safe. -/
  | lineTooLong
deriving DecidableEq, Repr

/-- What one step or one meaning answers. -/
abbrev Out := Host.Outcome State Fault Refusal

end Sys2Proof.Machine
end

