-- ==== Sys2Proof/Machine/Ops.lean ====
section
/-! DEFINITION. The named operations over memory and registers: one setter per register, BITMEM's read and write (R12, R61,
R62), the cursor (R120 to R131), the frame stack (R31), raising a fault (R210) and leaving one by RESET or START
(R213, R230, R231). -/

namespace Sys2Proof.Machine

/-! ## Register writes -/

/-- CI `<-` n. -/
def State.setCi (s : State) (n : Nat) : State := { s with ci := n }
/-- BITMEM `<-` m. -/
def State.setBitmem (s : State) (m : Memory) : State := { s with bitmem := m }
/-- LEN `<-` n. -/
def State.setLen (s : State) (n : Nat) : State := { s with len := n }
/-- POS `<-` n. -/
def State.setPos (s : State) (n : Nat) : State := { s with pos := n }
/-- ST `<-` x. -/
def State.setSt (s : State) (x : ParserState) : State := { s with st := x }
/-- VER `<-` v. -/
def State.setVer (s : State) (v : Version) : State := { s with ver := v }
/-- TID `<-` t. -/
def State.setTid (s : State) (t : TypeId) : State := { s with tid := t }
/-- CFLAG `<-` f. -/
def State.setCflag (s : State) (f : Flag) : State := { s with cflag := f }
/-- LTID `<-` f. -/
def State.setLtid (s : State) (f : Flag) : State := { s with ltid := f }
/-- ACC `<-` n. -/
def State.setAcc (s : State) (n : Nat) : State := { s with acc := n }
/-- STACK `<-` k. -/
def State.setStack (s : State) (k : List Frame) : State := { s with stack := k }
/-- RET `<-` p. -/
def State.setRet (s : State) (p : Option Packet) : State := { s with ret := p }
/-- ROOT `<-` p. -/
def State.setRoot (s : State) (p : Option Packet) : State := { s with root := p }
/-- FAULT `<-` f. -/
def State.setFault (s : State) (f : Option FaultRecord) : State := { s with fault := f }
/-- VSUM `<-` n. -/
def State.setVsum (s : State) (n : Option Nat) : State := { s with vsum := n }
/-- VALUE `<-` n. -/
def State.setValue (s : State) (n : Option Nat) : State := { s with value := n }
/-- EFAULT `<-` f. -/
def State.setEfault (s : State) (f : Option FaultRecord) : State := { s with efault := f }

/-! ## BITMEM (R12, R60 to R68) -/

/-- The bit at an address, none where nothing has been written. -/
def Memory.read : Memory → Nat → Option Bit
  | [], _ => none
  | (a, b) :: m, k => if a = k then some b else Memory.read m k

/-- Write one bit, keeping the addresses strictly rising. -/
def Memory.write : Memory → Nat → Bit → Memory
  | [], k, b => [(k, b)]
  | (a, c) :: m, k, b =>
    if k < a then (k, b) :: (a, c) :: m
    else if k = a then (k, b) :: m
    else (a, c) :: Memory.write m k b

/-- Write bits at consecutive addresses, the first at the lowest. -/
def Memory.writeBits : Memory → Nat → List Bit → Memory
  | m, _, [] => m
  | m, k, b :: bs => Memory.writeBits (Memory.write m k b) (k + 1) bs

/-- `BITMEM[k +: n]`, none where one of the bits has not been written (R11). -/
def Memory.readBits (m : Memory) : Nat → Nat → Option (List Bit)
  | _, 0 => some []
  | k, n + 1 =>
    match Memory.read m k with
    | none => none
    | some b => (Memory.readBits m (k + 1) n).map (b :: ·)

/-- The written bits from address k on, at most n and up to the first unwritten one. -/
def Memory.window (m : Memory) : Nat → Nat → List Bit
  | _, 0 => []
  | k, n + 1 =>
    match Memory.read m k with
    | none => []
    | some b => b :: Memory.window m (k + 1) n

/-- The canonical form: addresses strictly rising (so no address is listed twice). An unlisted address reads as "no valid
bit", and no entry says that, so equal memories are equal lists. -/
def Memory.wf : Memory → Bool
  | (a, _) :: (b, c) :: m => decide (a < b) && Memory.wf ((b, c) :: m)
  | [_] => true
  | [] => true

/-- `MemRead(p, w)`: the big-endian value of `BITMEM[p +: w]` (R12, R62). -/
def memRead (w : Nat) (m : Memory) (p : Nat) : Option (BitVec w) := (Memory.readBits m p w).map (fieldOf w)

/-- `MemWrite(p, w, v)`: the w bits of v at `BITMEM[p +: w]`, most significant first (R12, R61). -/
def memWrite {w : Nat} (m : Memory) (p : Nat) (v : BitVec w) : Memory := Memory.writeBits m p (fieldBits v)

/-! ## Raising a fault, and the ways out of it -/

/-- `raise f` in the front end: FAULT is latched and ST becomes Faulted; nothing else changes and nothing is saved, since
there is no handler to return from (R210). -/
def raise (f : FaultRecord) (s : State) : State := (s.setFault (some f)).setSt .faulted

/-- Whether a run is in progress: ST is none of Idle, ParseOk, Faulted (R40 `busy`). -/
def busy (s : State) : Bool :=
  match s.st with
  | .idle | .parseOk | .faulted => false
  | .loading | .readingHeader | .readingLiteralGroup | .readingLengthTypeFlag | .readingTotalLengthPrefix
  | .parsingSubpacketsByLength | .readingSubpacketCount | .parsingSubpacketsByCount | .done => true

/-- Whether a line is short enough for MAX_CHARS (R7, D7). -/
def fits (maxChars : Option Nat) (line : List CharCode) : Bool :=
  match maxChars with
  | none => true
  | some m => decide (line.length ≤ m)

/-- The state after START(line), before its first step: everything RESET does, then IN and ST (R231, R41). -/
def started (line : List CharCode) : State := { State.reset with input := line, st := .loading }

/-- START(line) under a given MAX_CHARS: enabled in Idle, ParseOk and Faulted; refused during a run (U7) and for a line
that is too long (U5). -/
def startWith (maxChars : Option Nat) (line : List CharCode) (s : State) : Out :=
  if busy s then .refused .startWhileBusy
  else if fits maxChars line then .next (started line)
  else .refused .lineTooLong

/-- RESET: enabled in every state; every register takes its reset value (R230). -/
def hostReset (_ : State) : Out := .next State.reset

/-- A host action (R230, R231). -/
def hostAction (c : HostCommand) (s : State) : Out :=
  match c with
  | .reset => hostReset s
  | .start line => startWith Config.maxChars line s

/-! ## The cursor (R120 to R131) -/

/-- REMAINING() (R121). -/
def remaining (s : State) : Nat := s.len - s.pos

/-- READ_BITS(w) (R122, R123): w bits from the front of the unread region, POS advanced by w, or UnexpectedEof with no
other effect. `given` is the field's value where the decoder has delivered it as an operand of the instruction; where it
is none the value is read from BITMEM. The two agree whenever the operand was decoded at POS. -/
def field (w : Nat) (given : Option (BitVec w)) (s : State) (k : BitVec w → State → Out) : Out :=
  if remaining s < w then .next (raise (.unexpectedEof w (remaining s) s.pos) s)
  else
    match given with
    | some v => k v (s.setPos (s.pos + w))
    | none =>
      match memRead w s.bitmem s.pos with
      | some v => k v (s.setPos (s.pos + w))
      | none => .fault .unwrittenBit

/-- READ_BITS(w) from BITMEM (R122, R123, R124). -/
def readBits (w : Nat) (s : State) (k : BitVec w → State → Out) : Out := field w none s k

/-- MARK() (R125). -/
def mark (s : State) : Nat := s.pos

/-- CONSUMED_SINCE(m) (R126); a mark ahead of POS is outside the contract and refused (U6). DESIGN CHOICE (log entry 10):
a mark at or below POS that no MARK() returned is outside the contract too; the block keeps no record of the marks it gave
out, and the model answers `POS - m`. Unsafe for a claim about such a mark; a run's frames hold marks of MARK() only. -/
def consumedSince (m : Nat) (s : State) (k : Nat → Out) : Out :=
  if m ≤ s.pos then k (s.pos - m) else .refused .markAheadOfPos

/-! ## Packets and frames (R30, R31, R33) -/

/-- The number of packets in a sequence. -/
def Packets.length : Packets → Nat
  | .nil => 0
  | .cons _ ps => ps.length + 1

/-- A sequence with one packet appended at its end (R144). -/
def Packets.snoc : Packets → Packet → Packets
  | .nil, p => .cons p .nil
  | .cons q ps, p => .cons q (ps.snoc p)

/-- A sequence as a list, in order. -/
def Packets.toList : Packets → List Packet
  | .nil => []
  | .cons p ps => p :: ps.toList

/-- `version` of a packet (R33). -/
def Packet.version : Packet → Version
  | .literal v _ _ => v
  | .operator v _ _ => v

/-- `type_id` of a packet (R33). -/
def Packet.typeId : Packet → TypeId
  | .literal _ t _ => t
  | .operator _ t _ => t

/-- `push(F)`: F becomes the top of STACK (R31). -/
def push (f : Frame) (s : State) : State := s.setStack (f :: s.stack)

/-- The frame an operator's prefix opens: version and type from VER and TID, mark = POS, no kids (R140, R142). -/
def newFrame (m : Mode) (limit : Nat) (s : State) : Frame :=
  { ver := s.ver, tid := s.tid, mode := m, mark := mark s, limit := limit, kids := .nil }

/-- The packet a frame has become when its last subpacket is complete (R141, R143). -/
def Frame.packet (f : Frame) : Packet := .operator f.ver f.tid f.kids

/-- A frame with one more completed subpacket (R144). -/
def Frame.append (f : Frame) (p : Packet) : Frame := { f with kids := f.kids.snoc p }

end Sys2Proof.Machine
end

