-- ==== Sys2Proof/Machine/Operands.lean ====
section
/-! DEFINITION. Where an instruction's operands come from: the fetch of the block. At each point of a packet's path the
instruction in progress is decoded from the registers its earlier steps wrote and the unread bits (R137 to R143, R90); in
Loading it is the character at `IN[CI]` (R113). -/

namespace Sys2Proof.Machine

/-- The unread bits as far as they are written: `BITMEM[POS +: LEN - POS]`. -/
def unread (s : State) : List Bit := Memory.window s.bitmem s.pos (remaining s)

/-- An instruction a decoder accepted, without the bits after it. -/
def accepted (r : Except DecodeError (Instr × List Bit)) : Option Instr :=
  match r with
  | .ok (i, _) => some i
  | .error _ => none

/-- The character instruction at `IN[CI]` (R113). -/
def fetchChar (s : State) : Option Instr :=
  match s.input[s.ci]? with
  | some c => accepted (decode (.char c))
  | none => none

/-- The operator whose frame is on top (R30): its operands are in the frame. -/
def fetchFrame (m : Mode) (s : State) : Option Instr :=
  match s.stack with
  | [] => none
  | f :: _ =>
    match m with
    | .byLength => if f.limit < 2 ^ 15 then opLInstr f.tid f.ver (BitVec.ofNat _ f.limit) else none
    | .byCount => if f.limit < 2 ^ 11 then opCInstr f.tid f.ver (BitVec.ofNat _ f.limit) else none

/-- The instruction in progress, with its operands: decoded at POS where a packet starts, and from VER, TID, the top frame
and the unread bits in the middle of one. None where no instruction of the table is there: the end of the line, a
character that is no digit, a packet whose bits run out before it is complete, and the states of no single instruction
(Done, and the sequencing states). -/
def instrInProgress (s : State) : Option Instr :=
  match s.st with
  | .loading => fetchChar s
  | .readingHeader => accepted (decode (.bits (unread s)))
  | .readingLiteralGroup => if s.tid = 4 then accepted (decodeLiteral s.ver (unread s)) else none
  | .readingLengthTypeFlag => accepted (decodeOperator s.ver s.tid (unread s))
  | .readingTotalLengthPrefix => accepted (decodeOpL s.ver s.tid (unread s))
  | .readingSubpacketCount => accepted (decodeOpC s.ver s.tid (unread s))
  | .parsingSubpacketsByLength => fetchFrame .byLength s
  | .parsingSubpacketsByCount => fetchFrame .byCount s
  | .idle | .done | .parseOk | .faulted => none

/-- Whether a packet of this version and type is the one the state is about: any packet may start in ReadingHeader; in the
reading states VER and TID name it, in the ParsingSubpackets states the top frame, in Done RET and in ParseOk ROOT. Where
the register that would name it is empty, the transition itself answers. -/
def isCurrent (v : Version) (t : TypeId) (s : State) : Bool :=
  match s.st with
  | .readingHeader => true
  | .readingLiteralGroup | .readingLengthTypeFlag | .readingTotalLengthPrefix | .readingSubpacketCount =>
    s.ver = v && s.tid = t
  | .parsingSubpacketsByLength | .parsingSubpacketsByCount =>
    match s.stack with
    | [] => true
    | f :: _ => f.ver = v && f.tid = t
  | .done =>
    match s.ret with
    | none => true
    | some p => p.version = v && p.typeId = t
  | .parseOk =>
    match s.root with
    | none => true
    | some p => p.version = v && p.typeId = t
  | .idle | .loading | .faulted => false

/-- A state in which the given code is what the next step fetches: no host action waits; a character stands at `IN[CI]`
and ST is Loading; packet bits stand in BITMEM from POS on, LEN reaches to their end, and ST is ReadingHeader. Log entry 7
says what this stands for. -/
def placeCode (code : Code) (s : State) : State :=
  match code with
  | .char c =>
    { s with
      request := none
      st := .loading
      input := s.input.take s.ci ++ List.replicate (s.ci - s.input.length) 0x30 ++ [c] }
  | .bits bs =>
    { s with
      request := none
      st := .readingHeader
      bitmem := Memory.writeBits s.bitmem s.pos bs
      len := max s.len (s.pos + bs.length) }

end Sys2Proof.Machine
end

