-- ==== Sys2Proof/Machine/Evaluator.lean ====
section
/-! DEFINITION. Units 4 and 5, the back end (R170 to R187): the value of a packet by its type, the version sum, and the one
step in which both results are set from ROOT (R38). Values are natural numbers without bound (R180, D22). -/

namespace Sys2Proof.Machine

/-- What the Evaluator gives: a value, or the fault that ended the evaluation (R179). -/
abbrev Evaluated := Except FaultRecord Nat

/-! ## One clause per packet type

Each clause takes the number of subpackets and the outcome of evaluating them in order: the operator's own test comes
first, then the first subpacket that faults (R179, D21). -/

/-- The value of a list of subpackets once they are all evaluated, or the first fault among them. -/
def withValues (vals : Except FaultRecord (List Nat)) (k : List Nat → Nat) : Evaluated :=
  match vals with
  | .ok vs => .ok (k vs)
  | .error e => .error e

/-- SUM: the sum, 0 for no subpackets (R171, D23). -/
def valueSum (vals : Except FaultRecord (List Nat)) : Evaluated := withValues vals fun vs => vs.sum

/-- PRODUCT: the product; EmptySubpackets for none (R172, C10). -/
def valueProduct (n : Nat) (vals : Except FaultRecord (List Nat)) : Evaluated :=
  if n = 0 then .error (.emptySubpackets 1) else withValues vals fun vs => vs.prod

/-- The least of a list; 0 for the empty list, which no clause asks for. -/
def leastOf : List Nat → Nat
  | [] => 0
  | v :: vs => vs.foldl min v

/-- The greatest of a list; 0 for the empty list, which no clause asks for. -/
def greatestOf : List Nat → Nat
  | [] => 0
  | v :: vs => vs.foldl max v

/-- MINIMUM: the least; EmptySubpackets for none (R173). -/
def valueMinimum (n : Nat) (vals : Except FaultRecord (List Nat)) : Evaluated :=
  if n = 0 then .error (.emptySubpackets 2) else withValues vals leastOf

/-- MAXIMUM: the greatest; EmptySubpackets for none (R174). -/
def valueMaximum (n : Nat) (vals : Except FaultRecord (List Nat)) : Evaluated :=
  if n = 0 then .error (.emptySubpackets 3) else withValues vals greatestOf

/-- A comparison's result is exactly 1 or 0 (R187). -/
def truth (b : Bool) : Nat := if b then 1 else 0

/-- A comparison of the first subpacket's value with the second's: WrongArity unless there are exactly two (R175). -/
def valueComparison (t : TypeId) (rel : Nat → Nat → Bool) (n : Nat) (vals : Except FaultRecord (List Nat)) : Evaluated :=
  if n = 2 then withValues vals fun vs => truth (rel (vs.getD 0 0) (vs.getD 1 0))
  else .error (.wrongArity t n)

/-- GT: 1 if the first value is greater (R175). -/
def valueGt (n : Nat) (vals : Except FaultRecord (List Nat)) : Evaluated :=
  valueComparison 5 (fun a b => decide (b < a)) n vals

/-- LT: 1 if the first value is less (R176). -/
def valueLt (n : Nat) (vals : Except FaultRecord (List Nat)) : Evaluated :=
  valueComparison 6 (fun a b => decide (a < b)) n vals

/-- EQ: 1 if the values are equal (R177). -/
def valueEq (n : Nat) (vals : Except FaultRecord (List Nat)) : Evaluated :=
  valueComparison 7 (fun a b => decide (a = b)) n vals

/-- An Operator body dispatched on its `type_id` (R179). Type 4 under an Operator body is the arm no line reaches
(R178); the 3-bit field admits no type above 7. -/
def valueOperator (t : TypeId) (n : Nat) (vals : Except FaultRecord (List Nat)) : Evaluated :=
  match t.toNat with
  | 0 => valueSum vals
  | 1 => valueProduct n vals
  | 2 => valueMinimum n vals
  | 3 => valueMaximum n vals
  | 5 => valueGt n vals
  | 6 => valueLt n vals
  | 7 => valueEq n vals
  | _ => .error (.invalidTypeId t)

mutual
/-- VALUE_OF (R170 to R179). -/
def valueOf : Packet → Evaluated
  | .literal _ _ v => .ok v
  | .operator _ t subs => valueOperator t subs.length (valuesOf subs)

/-- The values of a sequence, evaluated from the first on; the first fault ends it (R179, D21). -/
def valuesOf : Packets → Except FaultRecord (List Nat)
  | .nil => .ok []
  | .cons p ps =>
    match valueOf p with
    | .error e => .error e
    | .ok v =>
      match valuesOf ps with
      | .error e => .error e
      | .ok vs => .ok (v :: vs)
end

mutual
/-- VSUM_OF: the sum of all version fields of the tree (R181). -/
def vsumOf : Packet → Nat
  | .literal v _ _ => v.toNat
  | .operator v _ subs => v.toNat + vsumAll subs

/-- The version sums of a sequence, added up (R181). -/
def vsumAll : Packets → Nat
  | .nil => 0
  | .cons p ps => vsumOf p + vsumAll ps
end

mutual
/-- The number of packets in a tree (R182). -/
def packetCount : Packet → Nat
  | .literal _ _ _ => 1
  | .operator _ _ subs => 1 + packetCountAll subs

/-- The number of packets in a sequence of trees. -/
def packetCountAll : Packets → Nat
  | .nil => 0
  | .cons p ps => packetCount p + packetCountAll ps
end

/-- VSUM, and VALUE or EFAULT, written from a tree (R38, R183). -/
def setResults (p : Packet) (s : State) : State :=
  match valueOf p with
  | .ok v => ((s.setVsum (some (vsumOf p))).setValue (some v)).setEfault none
  | .error e => ((s.setVsum (some (vsumOf p))).setValue none).setEfault (some e)

/-- The back end's one step in ParseOk (R157, R186, D1): both results from ROOT. Once they are set the run has halted. -/
def backEnd (s : State) : Out :=
  if s.vsum.isSome then .refused .halted
  else
    match s.root with
    | none => .fault .noRootPacket
    | some p => .next (setResults p s)

end Sys2Proof.Machine
end

