-- ==== Sys2Proof/Machine/Flags.lean ====
section
/-! DEFINITION. The block's two control flags (R28): CFLAG, the `continue_flag` of the group read last, and LTID, the
`length_type_id` read last. Neither is a condition code: each is written and tested in one step. -/

namespace Sys2Proof.Machine

/-- The flag of a literal group followed by `rest`: 1 in every group but the last (R84). -/
def continueFlag (rest : List Nibble) : Flag := if rest.isEmpty then 0 else 1

/-- The test of CFLAG: 1 means another group follows (R28, R138). -/
def continues (f : Flag) : Bool := f = 1

/-- The state after `length_type_id`: 0 selects the total length, 1 the subpacket count (R28, R139). -/
def afterLengthType (f : Flag) : ParserState :=
  if f = 0 then .readingTotalLengthPrefix else .readingSubpacketCount

/-- The `length_type_id` of each form of operator (R86). -/
def lengthTypeOf : Mode → Flag
  | .byLength => 0
  | .byCount => 1

end Sys2Proof.Machine
end

