-- ==== Sys2Proof/Machine/HexDecoder.lean ====
section
/-! DEFINITION. Unit 1, the hex-to-binary decoder in its step form (R113), and the meanings of the 22 character
instructions: each writes the four bits of its digit's value (R81, R110, R111). -/

namespace Sys2Proof.Machine

/-- One valid character taken: `MemWrite(4*CI, 4, v)`, then CI + 1 (R113). -/
def takeDigit (v : Nibble) (s : State) : State :=
  (s.setBitmem (memWrite s.bitmem (4 * s.ci) v)).setCi (s.ci + 1)

/-- All characters taken: LEN is written, the cursor is created at 0, the parser starts (R113, R120). -/
def endOfLine (s : State) : State := ((s.setLen (4 * s.ci)).setPos 0).setSt .readingHeader

/-- The step of state Loading, whole (R113): the end of the line, MalformedHex, or one digit. -/
def loadingStep (s : State) : Out :=
  match s.input[s.ci]? with
  | none => .next (endOfLine s)
  | some c =>
    match hexVal c with
    | none => .next (raise (.malformedHex c s.ci) s)
    | some v => .next (takeDigit v s)

/-- The meaning of a character instruction of code c and value v: the Loading step where `IN[CI]` is that character
(R113). In any other state the character is not the one being taken. -/
def hexDigit (c : CharCode) (v : Nibble) (s : State) : Out :=
  if s.st = .loading ∧ s.input[s.ci]? = some c then .next (takeDigit v s) else .refused .outOfSequence

/-- The character `0`: code 0x30, bits 0000 (R81). -/
def execHex0 (s : State) : Out := hexDigit 0x30 0 s

/-- The character `1`: code 0x31, bits 0001 (R81). -/
def execHex1 (s : State) : Out := hexDigit 0x31 1 s

/-- The character `2`: code 0x32, bits 0010 (R81). -/
def execHex2 (s : State) : Out := hexDigit 0x32 2 s

/-- The character `3`: code 0x33, bits 0011 (R81). -/
def execHex3 (s : State) : Out := hexDigit 0x33 3 s

/-- The character `4`: code 0x34, bits 0100 (R81). -/
def execHex4 (s : State) : Out := hexDigit 0x34 4 s

/-- The character `5`: code 0x35, bits 0101 (R81). -/
def execHex5 (s : State) : Out := hexDigit 0x35 5 s

/-- The character `6`: code 0x36, bits 0110 (R81). -/
def execHex6 (s : State) : Out := hexDigit 0x36 6 s

/-- The character `7`: code 0x37, bits 0111 (R81). -/
def execHex7 (s : State) : Out := hexDigit 0x37 7 s

/-- The character `8`: code 0x38, bits 1000 (R81). -/
def execHex8 (s : State) : Out := hexDigit 0x38 8 s

/-- The character `9`: code 0x39, bits 1001 (R81). -/
def execHex9 (s : State) : Out := hexDigit 0x39 9 s

/-- The character `A`: code 0x41, bits 1010 (R81). -/
def execHexUpperA (s : State) : Out := hexDigit 0x41 10 s

/-- The character `B`: code 0x42, bits 1011 (R81). -/
def execHexUpperB (s : State) : Out := hexDigit 0x42 11 s

/-- The character `C`: code 0x43, bits 1100 (R81). -/
def execHexUpperC (s : State) : Out := hexDigit 0x43 12 s

/-- The character `D`: code 0x44, bits 1101 (R81). -/
def execHexUpperD (s : State) : Out := hexDigit 0x44 13 s

/-- The character `E`: code 0x45, bits 1110 (R81). -/
def execHexUpperE (s : State) : Out := hexDigit 0x45 14 s

/-- The character `F`: code 0x46, bits 1111 (R81). -/
def execHexUpperF (s : State) : Out := hexDigit 0x46 15 s

/-- The character `a`: code 0x61, bits 1010 (R81). -/
def execHexLowerA (s : State) : Out := hexDigit 0x61 10 s

/-- The character `b`: code 0x62, bits 1011 (R81). -/
def execHexLowerB (s : State) : Out := hexDigit 0x62 11 s

/-- The character `c`: code 0x63, bits 1100 (R81). -/
def execHexLowerC (s : State) : Out := hexDigit 0x63 12 s

/-- The character `d`: code 0x64, bits 1101 (R81). -/
def execHexLowerD (s : State) : Out := hexDigit 0x64 13 s

/-- The character `e`: code 0x65, bits 1110 (R81). -/
def execHexLowerE (s : State) : Out := hexDigit 0x65 14 s

/-- The character `f`: code 0x66, bits 1111 (R81). -/
def execHexLowerF (s : State) : Out := hexDigit 0x66 15 s

end Sys2Proof.Machine
end

