-- ==== Sys2Proof/Machine/Parser.lean ====
section
/-! DEFINITION. Unit 3, the packet parser: one definition per state rule R137 to R144, and the whole sequencer of the block
(R113, R137 to R144, R157). A transition that reads a field takes the value the decoder delivered for it as an operand,
or none to read it from BITMEM (`field`). -/

namespace Sys2Proof.Machine

/-- State ReadingHeader: `version`, then `type_id`; a literal clears ACC (R137). -/
def readingHeader (v : Option Version) (t : Option TypeId) (s : State) : Out :=
  field 3 v s fun v s =>
    field 3 t (s.setVer v) fun t s =>
      if t = 4 then .next (((s.setTid t).setAcc 0).setSt .readingLiteralGroup)
      else .next ((s.setTid t).setSt .readingLengthTypeFlag)

/-- The end of a literal group: ACC is folded whatever the flag says; flag 1 stays, flag 0 completes the packet (R138). -/
def foldGroup (f : Flag) (g : Nibble) (s : State) : State :=
  if continues f then (s.setAcc (s.acc * 16 + g.toNat)).setSt .readingLiteralGroup
  else ((s.setAcc (s.acc * 16 + g.toNat)).setRet (some (.literal s.ver s.tid (s.acc * 16 + g.toNat)))).setSt .done

/-- State ReadingLiteralGroup: `continue_flag`, then `group` (R138). -/
def readingLiteralGroup (f : Option Flag) (g : Option Nibble) (s : State) : Out :=
  field 1 f s fun f s =>
    field 4 g (s.setCflag f) fun g s =>
      .next (foldGroup f g s)

/-- State ReadingLengthTypeFlag: `length_type_id` (R139). -/
def readingLengthTypeFlag (i : Option Flag) (s : State) : Out :=
  field 1 i s fun i s => .next ((s.setLtid i).setSt (afterLengthType i))

/-- State ReadingTotalLengthPrefix: `total_length_bits`, then a ByLength frame (R140). -/
def readingTotalLengthPrefix (n : Option LengthField) (s : State) : Out :=
  field 15 n s fun n s =>
    .next ((push (newFrame .byLength n.toNat s) s).setSt .parsingSubpacketsByLength)

/-- State ReadingSubpacketCount: `subpacket_count`, then a ByCount frame (R142). -/
def readingSubpacketCount (c : Option CountField) (s : State) : Out :=
  field 11 c s fun c s =>
    .next ((push (newFrame .byCount c.toNat s) s).setSt .parsingSubpacketsByCount)

/-- The top frame is complete: pop it, its packet goes to RET (R141, R143). -/
def completeFrame (f : Frame) (rest : List Frame) (s : State) : State :=
  ((s.setStack rest).setRet (some f.packet)).setSt .done

/-- State ParsingSubpacketsByLength: the bits consumed since the mark against the declared length (R141). The length is a
check, not a window (R241). -/
def parsingSubpacketsByLength (s : State) : Out :=
  match s.stack with
  | [] => .fault .emptyStack
  | f :: rest =>
    consumedSince f.mark s fun consumed =>
      if consumed = f.limit then .next (completeFrame f rest s)
      else if f.limit < consumed then .next (raise (.overconsumedSubpackets f.limit consumed s.pos) s)
      else .next (s.setSt .readingHeader)

/-- State ParsingSubpacketsByCount: the subpackets completed against the declared count (R143). -/
def parsingSubpacketsByCount (s : State) : Out :=
  match s.stack with
  | [] => .fault .emptyStack
  | f :: rest => if f.kids.length = f.limit then .next (completeFrame f rest s) else .next (s.setSt .readingHeader)

/-- The state a frame resumes in, by its mode (R144). -/
def resumeState : Mode → ParserState
  | .byLength => .parsingSubpacketsByLength
  | .byCount => .parsingSubpacketsByCount

/-- A completed packet handed over: to ROOT where no operator is open, else to the top frame (R144). -/
def handOver (p : Packet) (s : State) : State :=
  match s.stack with
  | [] => ((s.setRoot (some p)).setRet none).setSt .parseOk
  | f :: rest => ((s.setStack (f.append p :: rest)).setRet none).setSt (resumeState f.mode)

/-- State Done (R144). -/
def done (s : State) : Out :=
  match s.ret with
  | none => .fault .noReturnPacket
  | some p => .next (handOver p s)

/-- The block's whole step relation by state, every field read from BITMEM: R113 in Loading, R137 to R144 while parsing,
the back end in ParseOk, and no step in Idle and Faulted (R157). -/
def sequencer (s : State) : Out :=
  match s.st with
  | .idle => .refused .halted
  | .loading => loadingStep s
  | .readingHeader => readingHeader none none s
  | .readingLiteralGroup => readingLiteralGroup none none s
  | .readingLengthTypeFlag => readingLengthTypeFlag none s
  | .readingTotalLengthPrefix => readingTotalLengthPrefix none s
  | .parsingSubpacketsByLength => parsingSubpacketsByLength s
  | .readingSubpacketCount => readingSubpacketCount none s
  | .parsingSubpacketsByCount => parsingSubpacketsByCount s
  | .done => done s
  | .parseOk => backEnd s
  | .faulted => .refused .halted

end Sys2Proof.Machine
end

