-- ==== Sys2Proof/Machine/Packets.lean ====
section
/-! DEFINITION. The meanings of the 15 packet instructions (R170 to R177). A packet takes several steps; its meaning in a
state is the transition it makes there: the state rules its row of spec/opcode_table.json names (R137 to R144) with the
operands the decoder delivered, and in ParseOk the evaluation of a ROOT of its type. -/

namespace Sys2Proof.Machine

/-- A literal: R137, R138 for its first remaining group, R144, and its value (R170). -/
def litTransition (v : Version) (groups : List Nibble) (s : State) : Out :=
  if isCurrent v 4 s then
    match s.st with
    | .readingHeader => readingHeader (some v) (some 4) s
    | .readingLiteralGroup =>
      match groups with
      | [] => .refused .illFormed
      | g :: rest => readingLiteralGroup (some (continueFlag rest)) (some g) s
    | .done => done s
    | .parseOk => backEnd s
    | .idle | .loading | .readingLengthTypeFlag | .readingTotalLengthPrefix | .parsingSubpacketsByLength
    | .readingSubpacketCount | .parsingSubpacketsByCount | .faulted => .refused .outOfSequence
  else .refused .outOfSequence

/-- An operator of type t in form OP.L: R137, R139, R140, R141, R144, and its value (R171 to R177). -/
def opLTransition (t : TypeId) (v : Version) (n : LengthField) (s : State) : Out :=
  if isCurrent v t s then
    match s.st with
    | .readingHeader => readingHeader (some v) (some t) s
    | .readingLengthTypeFlag => readingLengthTypeFlag (some (lengthTypeOf .byLength)) s
    | .readingTotalLengthPrefix => readingTotalLengthPrefix (some n) s
    | .parsingSubpacketsByLength => parsingSubpacketsByLength s
    | .done => done s
    | .parseOk => backEnd s
    | .idle | .loading | .readingLiteralGroup | .readingSubpacketCount | .parsingSubpacketsByCount
    | .faulted => .refused .outOfSequence
  else .refused .outOfSequence

/-- An operator of type t in form OP.C: R137, R139, R142, R143, R144, and its value (R171 to R177). -/
def opCTransition (t : TypeId) (v : Version) (c : CountField) (s : State) : Out :=
  if isCurrent v t s then
    match s.st with
    | .readingHeader => readingHeader (some v) (some t) s
    | .readingLengthTypeFlag => readingLengthTypeFlag (some (lengthTypeOf .byCount)) s
    | .readingSubpacketCount => readingSubpacketCount (some c) s
    | .parsingSubpacketsByCount => parsingSubpacketsByCount s
    | .done => done s
    | .parseOk => backEnd s
    | .idle | .loading | .readingLiteralGroup | .readingTotalLengthPrefix | .parsingSubpacketsByLength
    | .faulted => .refused .outOfSequence
  else .refused .outOfSequence

/-- LIT (R170). -/
def execLit (v : Version) (groups : List Nibble) (s : State) : Out := litTransition v groups s

/-- SUM.L (R87, R171). -/
def execSumL (v : Version) (n : LengthField) (s : State) : Out := opLTransition 0 v n s

/-- SUM.C (R88, R171). -/
def execSumC (v : Version) (c : CountField) (s : State) : Out := opCTransition 0 v c s

/-- PRODUCT.L (R87, R172). -/
def execProductL (v : Version) (n : LengthField) (s : State) : Out := opLTransition 1 v n s

/-- PRODUCT.C (R88, R172). -/
def execProductC (v : Version) (c : CountField) (s : State) : Out := opCTransition 1 v c s

/-- MINIMUM.L (R87, R173). -/
def execMinimumL (v : Version) (n : LengthField) (s : State) : Out := opLTransition 2 v n s

/-- MINIMUM.C (R88, R173). -/
def execMinimumC (v : Version) (c : CountField) (s : State) : Out := opCTransition 2 v c s

/-- MAXIMUM.L (R87, R174). -/
def execMaximumL (v : Version) (n : LengthField) (s : State) : Out := opLTransition 3 v n s

/-- MAXIMUM.C (R88, R174). -/
def execMaximumC (v : Version) (c : CountField) (s : State) : Out := opCTransition 3 v c s

/-- GT.L (R87, R175). -/
def execGtL (v : Version) (n : LengthField) (s : State) : Out := opLTransition 5 v n s

/-- GT.C (R88, R175). -/
def execGtC (v : Version) (c : CountField) (s : State) : Out := opCTransition 5 v c s

/-- LT.L (R87, R176). -/
def execLtL (v : Version) (n : LengthField) (s : State) : Out := opLTransition 6 v n s

/-- LT.C (R88, R176). -/
def execLtC (v : Version) (c : CountField) (s : State) : Out := opCTransition 6 v c s

/-- EQ.L (R87, R177). -/
def execEqL (v : Version) (n : LengthField) (s : State) : Out := opLTransition 7 v n s

/-- EQ.C (R88, R177). -/
def execEqC (v : Version) (c : CountField) (s : State) : Out := opCTransition 7 v c s

end Sys2Proof.Machine
end

