-- ==== Sys2Proof/Machine/Dispatch.lean ====
section
/-! DEFINITION. The dispatch: one arm per instruction, each one direct call of its meaning. -/

namespace Sys2Proof.Machine

def exec (i : Instr) (s : State) : Host.Outcome State Fault Refusal :=
  match i with
  | .hex0 => Sys2Proof.Machine.execHex0 s
  | .hex1 => Sys2Proof.Machine.execHex1 s
  | .hex2 => Sys2Proof.Machine.execHex2 s
  | .hex3 => Sys2Proof.Machine.execHex3 s
  | .hex4 => Sys2Proof.Machine.execHex4 s
  | .hex5 => Sys2Proof.Machine.execHex5 s
  | .hex6 => Sys2Proof.Machine.execHex6 s
  | .hex7 => Sys2Proof.Machine.execHex7 s
  | .hex8 => Sys2Proof.Machine.execHex8 s
  | .hex9 => Sys2Proof.Machine.execHex9 s
  | .hexUpperA => Sys2Proof.Machine.execHexUpperA s
  | .hexUpperB => Sys2Proof.Machine.execHexUpperB s
  | .hexUpperC => Sys2Proof.Machine.execHexUpperC s
  | .hexUpperD => Sys2Proof.Machine.execHexUpperD s
  | .hexUpperE => Sys2Proof.Machine.execHexUpperE s
  | .hexUpperF => Sys2Proof.Machine.execHexUpperF s
  | .hexLowerA => Sys2Proof.Machine.execHexLowerA s
  | .hexLowerB => Sys2Proof.Machine.execHexLowerB s
  | .hexLowerC => Sys2Proof.Machine.execHexLowerC s
  | .hexLowerD => Sys2Proof.Machine.execHexLowerD s
  | .hexLowerE => Sys2Proof.Machine.execHexLowerE s
  | .hexLowerF => Sys2Proof.Machine.execHexLowerF s
  | .lit v gs => Sys2Proof.Machine.execLit v gs s
  | .sumL v n => Sys2Proof.Machine.execSumL v n s
  | .sumC v c => Sys2Proof.Machine.execSumC v c s
  | .productL v n => Sys2Proof.Machine.execProductL v n s
  | .productC v c => Sys2Proof.Machine.execProductC v c s
  | .minimumL v n => Sys2Proof.Machine.execMinimumL v n s
  | .minimumC v c => Sys2Proof.Machine.execMinimumC v c s
  | .maximumL v n => Sys2Proof.Machine.execMaximumL v n s
  | .maximumC v c => Sys2Proof.Machine.execMaximumC v c s
  | .gtL v n => Sys2Proof.Machine.execGtL v n s
  | .gtC v c => Sys2Proof.Machine.execGtC v c s
  | .ltL v n => Sys2Proof.Machine.execLtL v n s
  | .ltC v c => Sys2Proof.Machine.execLtC v c s
  | .eqL v n => Sys2Proof.Machine.execEqL v n s
  | .eqC v c => Sys2Proof.Machine.execEqC v c s

end Sys2Proof.Machine
end

