-- ==== Sys2Proof/Machine/Step.lean ====
section
/-! DEFINITION. One step of the block: a host action that waits at the ports is taken first; otherwise the instruction in
progress is fetched, decoded and run; where there is none, the sequencer's own transition is taken (R157, R230, R231). -/

namespace Sys2Proof.Machine

/-- One step (R9, R113, R137 to R144, R157). -/
def step (s : State) : Host.Outcome State Fault Refusal :=
  match s.request with
  | some c => hostAction c s
  | none =>
    match instrInProgress s with
    | some i => exec i s
    | none => sequencer s

/-- The state with a word of spec/opcode_table.json where the next step fetches (`placeCode`); unchanged where the number
is no code of the table. -/
def State.withFetchWord (s : State) (nbits w : Nat) : State :=
  match tableCode nbits w with
  | some code => placeCode code s
  | none => s

end Sys2Proof.Machine
end

