-- ==== Sys2Proof/Machine/Ports.lean ====
section
/-! DEFINITION. What leaves the block: the output ports (R40), what the host may observe (R42), the outcome shapes (R10), the
tree as an event list (R36) and the recommended bit layout of a fault record (R200, R207). All of it is a function of the
state; nothing here is state. -/

namespace Sys2Proof.Machine

/-! ## Fault codes and records (R200, R207) -/

/-- The numeric code of a fault kind (R200, D16). -/
def FaultRecord.code : FaultRecord → Nat
  | .malformedHex _ _ => 1
  | .unexpectedEof _ _ _ => 2
  | .overconsumedSubpackets _ _ _ => 3
  | .invalidTypeId _ => 4
  | .emptySubpackets _ => 5
  | .wrongArity _ _ => 6

/-- The code on a fault port: 0 where no fault is held (R200, R40). -/
def faultCode (f : Option FaultRecord) : Nat :=
  match f with
  | none => 0
  | some f => f.code

/-- A front-end kind: one that goes to FAULT (R200, R37). -/
def FaultRecord.frontEnd : FaultRecord → Bool
  | .malformedHex _ _ | .unexpectedEof _ _ _ | .overconsumedSubpackets _ _ _ => true
  | .invalidTypeId _ | .emptySubpackets _ | .wrongArity _ _ => false

/-- The recommended record layout of R207: the 3-bit code, then the fields in the order of R200, `posw` being the width
POSW. Non-normative in the spec; log entry 6. -/
def FaultRecord.bits (posw : Nat) (f : FaultRecord) : List Bit :=
  bitsOf 3 f.code ++
    match f with
    | .malformedHex c i => fieldBits c ++ bitsOf posw i
    | .unexpectedEof q r p => bitsOf 4 q ++ bitsOf posw r ++ bitsOf posw p
    | .overconsumedSubpackets e a p => bitsOf posw e ++ bitsOf posw a ++ bitsOf posw p
    | .invalidTypeId t => fieldBits t
    | .emptySubpackets t => fieldBits t
    | .wrongArity t n => fieldBits t ++ bitsOf posw n

/-! ## The tree as events (R36) -/

/-- An event of the pre-order form of a tree (R36). -/
inductive Event where
  | lit (version : Version) (value : Nat)
  | opened (version : Version) (typeId : TypeId)
  | closed
deriving DecidableEq, Repr

mutual
/-- `events(packet)` (R36), in front of what follows. -/
def eventsThen : Packet → List Event → List Event
  | .literal v _ x, k => .lit v x :: k
  | .operator v t subs, k => .opened v t :: eventsAllThen subs (.closed :: k)

/-- The events of a sequence, in front of what follows. -/
def eventsAllThen : Packets → List Event → List Event
  | .nil, k => k
  | .cons p ps, k => eventsThen p (eventsAllThen ps k)
end

/-- `events(ROOT)`: the recommended form of the tree (R36, TREE_REPR). -/
def events (p : Packet) : List Event := eventsThen p []

/-! ## The output ports (R40) -/

/-- The port `ok`: ST is ParseOk (R40). -/
def okPort (s : State) : Bool := s.st = .parseOk

/-- The port `root` in the recommended form; nothing is visible before ParseOk (R36, R40). -/
def rootPort (s : State) : Option (List Event) := if okPort s then s.root.map events else none

/-- The port `value_ok`: whether VALUE is set (R40). -/
def valueOkPort (s : State) : Bool := s.value.isSome

/-- The port `fault_code` (R40). -/
def faultCodePort (s : State) : Nat := faultCode s.fault

/-- The port `efault_code` (R40). -/
def efaultCodePort (s : State) : Nat := faultCode s.efault

/-! ## The outcome, as the host sees it (R10, R42) -/

/-- The three shapes of a line's outcome (R10): a front-end fault; or the tree with its version sum and either its value
or the Evaluator's fault. -/
inductive LineOutcome where
  | fault (f : FaultRecord)
  | parsed (root : Packet) (vsum : Nat) (value : Evaluated)
deriving Repr

/-- The outcome of a tree (R10 b, c). -/
def outcomeOfTree (p : Packet) : LineOutcome := .parsed p (vsumOf p) (valueOf p)

/-- What the host may read of a state (R42). -/
inductive HostView where
  /-- A run is in progress, no run has been started, or the results of a parse are not set yet. -/
  | nothing
  /-- ParseOk: ROOT, VSUM, VALUE or EFAULT, and POS and LEN. -/
  | parsed (root : Packet) (vsum : Nat) (value : Evaluated) (pos len : Nat)
  /-- Faulted: FAULT only (R211). -/
  | fault (f : FaultRecord)
deriving Repr

/-- The Evaluator's result as its registers hold it: VALUE, else EFAULT (R38). -/
def resultRegisters (s : State) : Option Evaluated :=
  match s.value, s.efault with
  | some v, _ => some (.ok v)
  | none, some e => some (.error e)
  | none, none => none

/-- The host's view of a state (R42, R239). -/
def hostView (s : State) : HostView :=
  match s.st with
  | .parseOk =>
    match s.root, s.vsum, resultRegisters s with
    | some p, some n, some r => .parsed p n r s.pos s.len
    | _, _, _ => .nothing
  | .faulted =>
    match s.fault with
    | some f => .fault f
    | none => .nothing
  | .idle | .loading | .readingHeader | .readingLiteralGroup | .readingLengthTypeFlag | .readingTotalLengthPrefix
  | .parsingSubpacketsByLength | .readingSubpacketCount | .parsingSubpacketsByCount | .done => .nothing

end Sys2Proof.Machine
end

