-- ==== Sys2Proof/Machine/Reference.lean ====
section
/-! DEFINITION. The spec's own functional form of the front end: DECODE (R112), PARSE_PACKET over an explicit position
(R136) and PARSE (R147). The machine's step does not use it; it is what the step relation is compared with (R149). -/

namespace Sys2Proof.Machine

/-- DECODE from a given character index on (R112). -/
def decodeFrom : Nat → List CharCode → Except FaultRecord (List Bit)
  | _, [] => .ok []
  | i, c :: cs =>
    match hexVal c with
    | none => .error (.malformedHex c i)
    | some v =>
      match decodeFrom (i + 1) cs with
      | .error f => .error f
      | .ok bs => .ok (expand v ++ bs)

/-- DECODE(IN): the bit sequence of a line, or MalformedHex for its leftmost invalid character (R112). -/
def decodeLine (line : List CharCode) : Except FaultRecord (List Bit) := decodeFrom 0 line

/-- What the reference function gives: a result, a fault, or a sign that its recursion bound was too small. -/
inductive Ref (α : Type) where
  | ok (a : α)
  | raised (f : FaultRecord)
  | outOfFuel
deriving DecidableEq, Repr

/-- Sequencing: a raise ends the whole computation (R136). -/
def Ref.bind {α β : Type} (r : Ref α) (k : α → Ref β) : Ref β :=
  match r with
  | .ok a => k a
  | .raised f => .raised f
  | .outOfFuel => .outOfFuel

/-- `RD(p, w)`: READ_BITS at position p, with the position after it (R136). -/
def rd (bs : List Bit) (p w : Nat) : Ref (BitVec w × Nat) :=
  if bs.length - p < w then .raised (.unexpectedEof w (bs.length - p) p)
  else .ok (fieldOf w ((bs.drop p).take w), p + w)

mutual
/-- PARSE_PACKET(p0): the packet that starts at p0 and the position after it (R136). The first argument bounds the
recursion; `bs.length - p0 + 1` is enough (R136, last sentence). -/
def parsePacket (bs : List Bit) : Nat → Nat → Ref (Packet × Nat)
  | 0, _ => .outOfFuel
  | fuel + 1, p0 =>
    (rd bs p0 3).bind fun (ver, p1) =>
    (rd bs p1 3).bind fun (tid, p2) =>
    if tid = 4 then
      (litGroups bs fuel p2 0).bind fun (value, p3) => .ok (.literal ver tid value, p3)
    else
      (rd bs p2 1).bind fun (i, p3) =>
      if i = 0 then
        (rd bs p3 15).bind fun (n, p4) =>
        (byLength bs fuel p4 p4 n.toNat .nil).bind fun (kids, p5) => .ok (.operator ver tid kids, p5)
      else
        (rd bs p3 11).bind fun (c, p4) =>
        (byCount bs fuel p4 c.toNat .nil).bind fun (kids, p5) => .ok (.operator ver tid kids, p5)
termination_by structural fuel => fuel

/-- LIT_GROUPS(p, acc) (R136). -/
def litGroups (bs : List Bit) : Nat → Nat → Nat → Ref (Nat × Nat)
  | 0, _, _ => .outOfFuel
  | fuel + 1, p, acc =>
    (rd bs p 1).bind fun (f, p1) =>
    (rd bs p1 4).bind fun (g, p2) =>
    if f = 1 then litGroups bs fuel p2 (acc * 16 + g.toNat) else .ok (acc * 16 + g.toNat, p2)
termination_by structural fuel => fuel

/-- BY_LENGTH(p, mark, n, kids) (R136). -/
def byLength (bs : List Bit) : Nat → Nat → Nat → Nat → Packets → Ref (Packets × Nat)
  | 0, _, _, _, _ => .outOfFuel
  | fuel + 1, p, mark, n, kids =>
    if p - mark = n then .ok (kids, p)
    else if n < p - mark then .raised (.overconsumedSubpackets n (p - mark) p)
    else (parsePacket bs fuel p).bind fun (k, p') => byLength bs fuel p' mark n (kids.snoc k)
termination_by structural fuel => fuel

/-- BY_COUNT(p, c, kids) (R136). -/
def byCount (bs : List Bit) : Nat → Nat → Nat → Packets → Ref (Packets × Nat)
  | 0, _, _, _ => .outOfFuel
  | fuel + 1, p, c, kids =>
    if kids.length = c then .ok (kids, p)
    else (parsePacket bs fuel p).bind fun (k, p') => byCount bs fuel p' c (kids.snoc k)
termination_by structural fuel => fuel
end

/-- A recursion bound that is enough for a whole bit sequence (R136). -/
def enoughFuel (bs : List Bit) : Nat := bs.length + 1

/-- PARSE(IN): DECODE, then one PARSE_PACKET at position 0 (R147). -/
def parseLine (line : List CharCode) : Ref (Packet × Nat) :=
  match decodeLine line with
  | .error f => .raised f
  | .ok bs => parsePacket bs (enoughFuel bs) 0

/-- The outcome of a line by the reference function (R10); none where its recursion bound was too small. -/
def lineOutcome (line : List CharCode) : Option LineOutcome :=
  match parseLine line with
  | .ok (root, _) => some (outcomeOfTree root)
  | .raised f => some (.fault f)
  | .outOfFuel => none

end Sys2Proof.Machine
end

