-- ==== Sys2Proof/Safety.lean ====
section
/-! DEFINITION. What the claims are stated in: runs, halted states, the edges of the transition graph (R145), the shape of
packets (R34) and the invariants of a run (R23, R24, R32, R35, R37, R38, R150). -/

namespace Sys2Proof.Machine

/-! ## Runs -/

/-- `k` steps of the block, stopping at the first fault or refusal. -/
def run (k : Nat) (s : State) : Host.Outcome State Fault Refusal := Host.Core.run Sys2Proof.core k s

/-- The run has ended: Idle, Faulted, or ParseOk with its results set (R157, R232). -/
def halted (s : State) : Bool :=
  match s.st with
  | .idle | .faulted => true
  | .parseOk => s.vsum.isSome
  | .loading | .readingHeader | .readingLiteralGroup | .readingLengthTypeFlag | .readingTotalLengthPrefix
  | .parsingSubpacketsByLength | .readingSubpacketCount | .parsingSubpacketsByCount | .done => false

/-- The states in which the parser is at work: from ReadingHeader to Done (R137 to R144). -/
def parsing (x : ParserState) : Bool :=
  match x with
  | .readingHeader | .readingLiteralGroup | .readingLengthTypeFlag | .readingTotalLengthPrefix
  | .parsingSubpacketsByLength | .readingSubpacketCount | .parsingSubpacketsByCount | .done => true
  | .idle | .loading | .parseOk | .faulted => false

/-- The edges of R145 that are taken without a host action. ParseOk keeps its state when the back end sets the results. -/
def edge (a b : ParserState) : Bool :=
  match a, b with
  | .loading, .loading => true
  | .loading, .readingHeader => true
  | .loading, .faulted => true
  | .readingHeader, .readingLiteralGroup => true
  | .readingHeader, .readingLengthTypeFlag => true
  | .readingHeader, .faulted => true
  | .readingLiteralGroup, .readingLiteralGroup => true
  | .readingLiteralGroup, .done => true
  | .readingLiteralGroup, .faulted => true
  | .readingLengthTypeFlag, .readingTotalLengthPrefix => true
  | .readingLengthTypeFlag, .readingSubpacketCount => true
  | .readingLengthTypeFlag, .faulted => true
  | .readingTotalLengthPrefix, .parsingSubpacketsByLength => true
  | .readingTotalLengthPrefix, .faulted => true
  | .readingSubpacketCount, .parsingSubpacketsByCount => true
  | .readingSubpacketCount, .faulted => true
  | .parsingSubpacketsByLength, .readingHeader => true
  | .parsingSubpacketsByLength, .done => true
  | .parsingSubpacketsByLength, .faulted => true
  | .parsingSubpacketsByCount, .readingHeader => true
  | .parsingSubpacketsByCount, .done => true
  | .done, .parsingSubpacketsByLength => true
  | .done, .parsingSubpacketsByCount => true
  | .done, .parseOk => true
  | .parseOk, .parseOk => true
  | _, _ => false

/-- A measure that every parser step but a raise brings down (R151): the unread bits, two for each open frame, one while
the top frame is tested and two in Done. -/
def progress (s : State) : Nat :=
  remaining s + 2 * s.stack.length +
    match s.st with
    | .parsingSubpacketsByLength | .parsingSubpacketsByCount => 1
    | .done => 2
    | .idle | .loading | .readingHeader | .readingLiteralGroup | .readingLengthTypeFlag | .readingTotalLengthPrefix
    | .readingSubpacketCount | .parseOk | .faulted => 0

/-! ## Packets -/

mutual
/-- "`type_id == 4 ⇔ body is Literal`", in every packet of the tree (R34 a). -/
def Packet.typed : Packet → Bool
  | .literal _ t _ => t = 4
  | .operator _ t subs => t ≠ 4 && subs.typed

/-- The same of every packet of a sequence. -/
def Packets.typed : Packets → Bool
  | .nil => true
  | .cons p ps => p.typed && ps.typed
end

/-- The value a literal's groups stand for: their payloads concatenated, first group most significant (R85). -/
def literalValue (groups : List Nibble) : Nat := be (groups.flatMap fieldBits)

/-! ## The bit store of a line -/

/-- Bits stored at consecutive addresses from k on. -/
def memoryFrom : Nat → List Bit → Memory
  | _, [] => []
  | k, b :: bs => (k, b) :: memoryFrom (k + 1) bs

/-- BITMEM holding exactly a bit sequence from address 0 on (R23). -/
def memoryOf (bs : List Bit) : Memory := memoryFrom 0 bs

/-- The state in which the parser starts on a line whose characters are all taken: BITMEM and LEN as the decoder leaves
them, POS 0, ReadingHeader (R113, R120, R149). -/
def parserStart (line : List CharCode) (bs : List Bit) : State :=
  { started line with ci := line.length, bitmem := memoryOf bs, len := bs.length, st := .readingHeader }

/-! ## The invariants of a run -/

/-- A frame is sound at a position: its type is no literal's, its mark is not ahead, its packets have the right shape,
and a ByCount frame has no more of them than its limit (R150 b, d). -/
def FrameSound (pos : Nat) (f : Frame) : Prop :=
  f.tid ≠ 4 ∧ f.mark ≤ pos ∧ f.kids.typed = true ∧ (f.mode = .byCount → f.kids.length ≤ f.limit)

/-- The frames that wait for a subpacket: all of them, but for the top one while it is being tested. -/
def waiting (s : State) : List Frame :=
  match s.st with
  | .parsingSubpacketsByCount => s.stack.tail
  | .idle | .loading | .readingHeader | .readingLiteralGroup | .readingLengthTypeFlag | .readingTotalLengthPrefix
  | .parsingSubpacketsByLength | .readingSubpacketCount | .done | .parseOk | .faulted => s.stack

/-- The parser's invariant (R150): the cursor, the frames, the order of their marks, the room a ByCount frame has while one
of its subpackets is being parsed, what ST says of TID and of the top frame, the shape of RET and ROOT, and an empty stack
outside a parse. -/
structure ParserInv (s : State) : Prop where
  cursor : s.pos ≤ s.len
  frames : ∀ f ∈ s.stack, FrameSound s.pos f
  marks : s.stack.Pairwise fun f g => g.mark < f.mark
  room : ∀ f ∈ waiting s, f.mode = .byCount → f.kids.length < f.limit
  literalType : s.st = .readingLiteralGroup → s.tid = 4
  operatorType : s.st = .readingLengthTypeFlag ∨ s.st = .readingTotalLengthPrefix ∨ s.st = .readingSubpacketCount →
    s.tid ≠ 4
  topByLength : s.st = .parsingSubpacketsByLength → ∃ f rest, s.stack = f :: rest ∧ f.mode = .byLength
  topByCount : s.st = .parsingSubpacketsByCount → ∃ f rest, s.stack = f :: rest ∧ f.mode = .byCount
  emptyStack : s.st = .idle ∨ s.st = .loading ∨ s.st = .parseOk → s.stack = []
  retTyped : ∀ p, s.ret = some p → p.typed = true
  rootTyped : ∀ p, s.root = some p → p.typed = true

/-- The bit store's invariant (R23, R24, R61): BITMEM is exactly the decoding of the characters taken so far, and once the
parser runs all of them are taken and LEN is four times their number. -/
structure StoreInv (s : State) : Prop where
  index : s.ci ≤ s.input.length
  bits : ∃ bs, decodeLine (s.input.take s.ci) = .ok bs ∧ s.bitmem = memoryOf bs
  complete : parsing s.st = true ∨ s.st = .parseOk → s.ci = s.input.length ∧ s.len = 4 * s.input.length

/-- The invariant of RET, ROOT and the result registers (R32, R35, R37, R38, R183): RET holds a packet in Done only, ROOT in
ParseOk only, FAULT in Faulted only and of a front-end kind, and the results are none until the back end sets them from
ROOT. -/
structure ResultInv (s : State) : Prop where
  ret : s.ret.isSome = true ↔ s.st = .done
  root : s.root.isSome = true ↔ s.st = .parseOk
  fault : s.fault.isSome = true ↔ s.st = .faulted
  kind : ∀ f, s.fault = some f → f.frontEnd = true
  none_yet : s.vsum = none → s.value = none ∧ s.efault = none
  results : s.vsum.isSome = true → ∃ p, s.root = some p ∧ setResults p s = s

/-- Every state a run can reach satisfies all three. -/
structure RunInv (s : State) : Prop where
  parser : ParserInv s
  store : StoreInv s
  result : ResultInv s

/-- How many bits of the packet being read stand before POS, in the states that read its prefix (R83, R86). -/
def prefixRead (x : ParserState) : Nat :=
  match x with
  | .readingLiteralGroup | .readingLengthTypeFlag => 6
  | .readingTotalLengthPrefix | .readingSubpacketCount => 7
  | .idle | .loading | .readingHeader | .parsingSubpacketsByLength | .parsingSubpacketsByCount | .done | .parseOk
  | .faulted => 0

/-- Every open frame has 18 bits of its own before POS, and so has the prefix being read (R8 b). -/
def DepthInv (s : State) : Prop := 18 * s.stack.length + prefixRead s.st ≤ s.pos

/-- A fault record says what the state of the faulting step was (R201, R202, R203). -/
def FaultRecordInv (s : State) : Prop :=
  ∀ f, s.fault = some f →
    match f with
    | .malformedHex c i => s.input[i]? = some c ∧ hexVal c = none ∧ i = s.ci
    | .unexpectedEof n r p =>
      (n = 1 ∨ n = 3 ∨ n = 4 ∨ n = 11 ∨ n = 15) ∧ r < n ∧ r ≤ 14 ∧ r = s.len - p ∧ p = s.pos
    | .overconsumedSubpackets e a p => e < a ∧ a ≤ p ∧ p = s.pos
    | .invalidTypeId _ | .emptySubpackets _ | .wrongArity _ _ => False

/-- A step that stops only as the spec lets it: no step is enabled, or the host broke the protocol (U5, U7, R157). -/
def allowedStop (o : Out) : Prop :=
  match o with
  | .next _ => True
  | .refused r => r = .halted ∨ r = .startWhileBusy ∨ r = .lineTooLong
  | .fault _ => False

end Sys2Proof.Machine
end

