-- ==== Sys2Proof/Certificates/Slice0/Obligations.lean ====
section
/-! DEFINITION. The statements for the provers. `remaining`, `exec`, `step`, `decodeBits` and so on are the model's own
definitions; a state a statement names is written out as the register writes the rule lists. `exec i s` is the transition
instruction i makes in state s (log entry 4), and a statement without `request` in it holds whatever the host asks next. -/

open Sys2Proof Sys2Proof.Machine

/-! ## Encoding -/

/-- R81, R84, R87, R88, R97: every well-formed instruction is what its own code decodes to, in both code spaces, and a
packet's code is read off the front of any longer bit sequence with exactly the bits after it left over. -/
def Obligations.DecodeOfEncodeIsTheInstruction : Prop :=
  (∀ i : Instr, i.wellFormed = true → decode (encode i) = .ok (i, [])) ∧
  (∀ (i : Instr) (bs rest : List Bit), i.wellFormed = true → encode i = .bits bs →
    decodeBits (bs ++ rest) = .ok (i, rest))

/-- R81, R83 to R88, R90: what decodes to an instruction is exactly that instruction's code, and the instruction is well
formed: each code has one meaning. -/
def Obligations.DecodedCodeIsTheEncoding : Prop :=
  (∀ (c : CharCode) (i : Instr), decodeChar c = .ok i → encode i = .char c ∧ i.wellFormed = true) ∧
  (∀ (bs rest : List Bit) (i : Instr), decodeBits bs = .ok (i, rest) →
    i.wellFormed = true ∧ ∃ front, encode i = .bits front ∧ bs = front ++ rest)

/-- R81, R84, R87, R88: codes written out bit by bit from the spec's layouts decode to the instruction they stand for. -/
def Obligations.WrittenOutCodesDecode : Prop :=
  decode (.char 0x44) = .ok (.hexUpperD, []) ∧
  decode (.char 0x64) = .ok (.hexLowerD, []) ∧
  -- 110 100 1 0111 1 1110 0 0101 000
  decodeBits [true, true, false, true, false, false, true, false, true, true, true, true, true, true, true, false,
    false, false, true, false, true, false, false, false] = .ok (.lit 6 [7, 14, 5], [false, false, false]) ∧
  -- 001 110 0 000000000011011
  decodeBits [false, false, true, true, true, false, false, false, false, false, false, false, false, false, false,
    false, false, true, true, false, true, true] = .ok (.ltL 1 27, []) ∧
  -- 111 011 1 00000000011
  decodeBits [true, true, true, false, true, true, true, false, false, false, false, false, false, false, false, false,
    true, true] = .ok (.maximumC 7 3, [])

/-- R81: the codes that decode to a character instruction are exactly the 22 hex digits', and upper and lower case have
the same value. -/
def Obligations.ValidCharactersAreTheHexDigits : Prop :=
  (∀ c : CharCode, (∃ i, decodeChar c = .ok i) ↔
    (0x30 ≤ c.toNat ∧ c.toNat ≤ 0x39) ∨ (0x41 ≤ c.toNat ∧ c.toNat ≤ 0x46) ∨ (0x61 ≤ c.toNat ∧ c.toNat ≤ 0x66)) ∧
  (∀ c : CharCode, (∃ i, decodeChar c = .ok i) ↔ ∃ v, hexVal c = some v) ∧
  (∀ c : CharCode, 0x41 ≤ c.toNat → c.toNat ≤ 0x46 → hexVal (c + 0x20) = hexVal c)

/-! ## The hex decoder -/

/-- R114: the decoder's output is four bits per character, so its length is a multiple of 4 and 0 exactly for the empty
line, and bit k comes from character k/4. -/
def Obligations.DecodedLengthLaw : Prop :=
  ∀ (chars : List CharCode) (bs : List Bit), decodeLine chars = .ok bs →
    bs.length = 4 * chars.length ∧ bs.length % 4 = 0 ∧ (bs.length = 0 ↔ chars = []) ∧
    ∀ k, k < bs.length → ∃ c v, chars[k / 4]? = some c ∧ hexVal c = some v ∧ bs[k]? = (expand v)[k % 4]?

/-- R112, D3, D4, D5: the decoder fails exactly on a line with an invalid character, and then reports the leftmost one with
its code and its index from 0. -/
def Obligations.LeftmostInvalidCharacterIsReported : Prop :=
  ∀ (chars : List CharCode) (f : FaultRecord), decodeLine chars = .error f ↔
    ∃ (i : Nat) (c : CharCode), chars[i]? = some c ∧ hexVal c = none ∧
      (∀ j, j < i → ∃ d v, chars[j]? = some d ∧ hexVal d = some v) ∧ f = .malformedHex c i

/-- R81, R110, R111, R113: in Loading, with its character at `IN[CI]`, each of the 22 character instructions writes the
four bits of its digit's value at 4*CI and adds one to CI; nothing else changes. -/
def Obligations.CharacterStoresItsDigit : Prop :=
  ∀ (i : Instr) (s : State), i.format = .hexChar → ∃ c v, encode i = .char c ∧ hexVal c = some v ∧
    (s.st = .loading → s.input[s.ci]? = some c →
      exec i s = .next { s with bitmem := memWrite s.bitmem (4 * s.ci) v, ci := s.ci + 1 })

/-- R61, R113: the frame of the 22 character instructions: the four bits stored read back as the digit's value, every
address outside them reads as before, and every other register is unchanged. -/
def Obligations.CharacterFrame : Prop :=
  ∀ (i : Instr) (s t : State), i.format = .hexChar → exec i s = .next t →
    (∃ c v, encode i = .char c ∧ hexVal c = some v ∧ memRead 4 t.bitmem (4 * s.ci) = some v) ∧
    (∀ a, a < 4 * s.ci ∨ 4 * s.ci + 4 ≤ a → Memory.read t.bitmem a = Memory.read s.bitmem a) ∧
    t = { s with bitmem := t.bitmem, ci := s.ci + 1 }

/-- R113, R201: a Loading step at a character that is no hex digit raises MalformedHex with that character and its index
and changes nothing else; at the end of the line it sets LEN to 4*CI, POS to 0 and starts the parser. -/
def Obligations.LoadingEndsOrFaults : Prop :=
  (∀ (s : State) (c : CharCode), s.request = none → s.st = .loading → s.input[s.ci]? = some c → hexVal c = none →
    step s = .next { s with fault := some (.malformedHex c s.ci), st := .faulted }) ∧
  (∀ s : State, s.request = none → s.st = .loading → s.input.length ≤ s.ci →
    step s = .next { s with len := 4 * s.ci, pos := 0, st := .readingHeader })

/-- R113, last paragraph: run from START, the Loading steps leave in BITMEM and LEN exactly what DECODE gives, or raise
exactly the fault DECODE raises, with no tree. The states are named whole, VER, TID, CFLAG, LTID and ACC at the model's 0,
log entry 1. -/
def Obligations.LoadingDecodesTheLine : Prop :=
  ∀ line : List CharCode,
    (∀ bs, decodeLine line = .ok bs → run (line.length + 1) (started line) = .next (parserStart line bs)) ∧
    (∀ f, decodeLine line = .error f → ∃ k t, k ≤ line.length ∧ run k (started line) = .next t ∧
      t.st = .faulted ∧ t.fault = some f ∧ t.root = none ∧ t.len = 0 ∧ t.pos = 0)

/-! ## The cursor -/

/-- R122, R123, R124: READ_BITS of any width n gives the n bits from POS on and advances POS by n when n bits remain; when
fewer remain it raises UnexpectedEof with the width asked for, the bits left and the position, and does nothing else. -/
def Obligations.ReadBitsIsAllOrNothing : Prop :=
  ∀ (n : Nat) (s : State) (k : BitVec n → State → Out),
    (s.len - s.pos < n →
      readBits n s k = .next { s with fault := some (.unexpectedEof n (s.len - s.pos) s.pos), st := .faulted }) ∧
    (n ≤ s.len - s.pos → ∀ v, memRead n s.bitmem s.pos = some v → readBits n s k = k v { s with pos := s.pos + n }) ∧
    (n = 0 → readBits n s k = k 0 s)

/-- R62, R63: fields are big-endian, so two reads in a row give the same bits as one wide read: `v_(n+m) = v_n * 2^m + v_m`. -/
def Obligations.AdjacentReadsCompose : Prop :=
  ∀ (m : Memory) (p n k : Nat) (a : BitVec n) (b : BitVec k), memRead n m p = some a → memRead k m (p + n) = some b →
    ∃ c : BitVec (n + k), memRead (n + k) m p = some c ∧ c.toNat = a.toNat * 2 ^ k + b.toNat

/-- R126, U6: CONSUMED_SINCE of a mark that is not ahead of POS is POS minus the mark; a mark ahead of POS is refused by name.
That a mark no MARK() returned is answered like the others is the model's choice, log entry 10. -/
def Obligations.ConsumedSinceAMark : Prop :=
  ∀ (m : Nat) (s : State) (k : Nat → Out),
    (m ≤ s.pos → consumedSince m s k = k (s.pos - m)) ∧
    (s.pos < m → consumedSince m s k = .refused .markAheadOfPos)

/-! ## The meanings, state rule by state rule -/

/-- R137: in ReadingHeader with at least 6 bits left, each of the 15 packet instructions writes VER and TID and advances
POS by 6; a literal clears ACC and goes to ReadingLiteralGroup, an operator goes to ReadingLengthTypeFlag. -/
def Obligations.PacketHeaderIsRead : Prop :=
  ∀ (i : Instr) (v : Version) (y : TypeId) (s : State), i.version = some v → i.typeId = some y →
    s.st = .readingHeader → 6 ≤ s.len - s.pos →
    exec i s = .next (if i.format = .lit
      then { s with pos := s.pos + 6, ver := v, tid := y, acc := 0, st := .readingLiteralGroup }
      else { s with pos := s.pos + 6, ver := v, tid := y, st := .readingLengthTypeFlag })

/-- R138: in ReadingLiteralGroup of its own packet with at least 5 bits left, LIT folds its first remaining group into ACC
and advances POS by 5; with more groups to come CFLAG is 1 and the state stays, with none CFLAG is 0 and RET holds the
literal. -/
def Obligations.LiteralGroupIsFolded : Prop :=
  ∀ (v : Version) (g : Nibble) (rest : List Nibble) (s : State), s.st = .readingLiteralGroup → s.ver = v → s.tid = 4 →
    5 ≤ s.len - s.pos →
    exec (.lit v (g :: rest)) s = .next (if rest = []
      then { s with pos := s.pos + 5, cflag := 0, acc := s.acc * 16 + g.toNat,
                    ret := some (.literal v 4 (s.acc * 16 + g.toNat)), st := .done }
      else { s with pos := s.pos + 5, cflag := 1, acc := s.acc * 16 + g.toNat })

/-- R85, R90, R158, R170: a whole literal, its bits written from POS on: in `g + 1` steps the block has read exactly
`6 + 5*g` bits and holds in RET the literal of that version whose value is the concatenation of the payloads. -/
def Obligations.LiteralRunBuildsItsValue : Prop :=
  ∀ (v : Version) (groups : List Nibble) (s : State), groups ≠ [] → s.request = none → s.st = .readingHeader →
    Memory.readBits s.bitmem s.pos (6 + 5 * groups.length) = some (litBits v groups) →
    s.pos + (6 + 5 * groups.length) ≤ s.len →
    run (groups.length + 1) s = .next { s with
      pos := s.pos + (6 + 5 * groups.length), ver := v, tid := 4, cflag := 0, acc := literalValue groups,
      ret := some (.literal v 4 (literalValue groups)), st := .done }

/-- R86, R139: in ReadingLengthTypeFlag of its own packet with a bit left, an operator writes LTID and advances POS by 1:
form .L (SUM, PRODUCT, MINIMUM, MAXIMUM, GT, LT, EQ) writes 0 and goes to ReadingTotalLengthPrefix, form .C writes 1 and
goes to ReadingSubpacketCount. -/
def Obligations.LengthTypeFlagSelectsTheForm : Prop :=
  ∀ (i : Instr) (s : State), i.version = some s.ver → i.typeId = some s.tid → s.st = .readingLengthTypeFlag →
    1 ≤ s.len - s.pos →
    (i.format = .opL → exec i s = .next { s with pos := s.pos + 1, ltid := 0, st := .readingTotalLengthPrefix }) ∧
    (i.format = .opC → exec i s = .next { s with pos := s.pos + 1, ltid := 1, st := .readingSubpacketCount })

/-- R140: in ReadingTotalLengthPrefix of its own packet with 15 bits left, each of the seven .L operators pushes a ByLength
frame with VER, TID, its declared length and the position after the field as mark, and tests it next. -/
def Obligations.TotalLengthOpensAFrame : Prop :=
  ∀ (i : Instr) (n : Nat) (s : State), i.format = .opL → i.limit = some n → i.version = some s.ver →
    i.typeId = some s.tid → s.st = .readingTotalLengthPrefix → 15 ≤ s.len - s.pos →
    exec i s = .next { s with
      pos := s.pos + 15, st := .parsingSubpacketsByLength,
      stack := { ver := s.ver, tid := s.tid, mode := .byLength, mark := s.pos + 15, limit := n, kids := .nil } :: s.stack }

/-- R142: in ReadingSubpacketCount of its own packet with 11 bits left, each of the seven .C operators pushes a ByCount
frame with VER, TID and its declared count, and tests it next. -/
def Obligations.SubpacketCountOpensAFrame : Prop :=
  ∀ (i : Instr) (n : Nat) (s : State), i.format = .opC → i.limit = some n → i.version = some s.ver →
    i.typeId = some s.tid → s.st = .readingSubpacketCount → 11 ≤ s.len - s.pos →
    exec i s = .next { s with
      pos := s.pos + 11, st := .parsingSubpacketsByCount,
      stack := { ver := s.ver, tid := s.tid, mode := .byCount, mark := s.pos + 11, limit := n, kids := .nil } :: s.stack }

/-- R141: in ParsingSubpacketsByLength with its own frame on top, each of the seven .L operators completes (pop, RET, Done)
when the bits consumed since the mark equal the declared length, raises OverconsumedSubpackets when they exceed it, and
starts the next subpacket when they are fewer. -/
def Obligations.DeclaredLengthIsTested : Prop :=
  ∀ (i : Instr) (f : Frame) (rest : List Frame) (s : State), i.format = .opL → i.version = some f.ver →
    i.typeId = some f.tid → s.st = .parsingSubpacketsByLength → s.stack = f :: rest → f.mark ≤ s.pos →
    (s.pos - f.mark = f.limit →
      exec i s = .next { s with stack := rest, ret := some (.operator f.ver f.tid f.kids), st := .done }) ∧
    (f.limit < s.pos - f.mark →
      exec i s = .next { s with
        fault := some (.overconsumedSubpackets f.limit (s.pos - f.mark) s.pos), st := .faulted }) ∧
    (s.pos - f.mark < f.limit → exec i s = .next { s with st := .readingHeader })

/-- R143: in ParsingSubpacketsByCount with its own frame on top, each of the seven .C operators completes (pop, RET, Done)
when it has as many subpackets as declared, and starts the next one otherwise. -/
def Obligations.DeclaredCountIsTested : Prop :=
  ∀ (i : Instr) (f : Frame) (rest : List Frame) (s : State), i.format = .opC → i.version = some f.ver →
    i.typeId = some f.tid → s.st = .parsingSubpacketsByCount → s.stack = f :: rest →
    (f.kids.length = f.limit →
      exec i s = .next { s with stack := rest, ret := some (.operator f.ver f.tid f.kids), st := .done }) ∧
    (f.kids.length ≠ f.limit → exec i s = .next { s with st := .readingHeader })

/-- R144: in Done with a packet of its version and type in RET, each of the 15 packet instructions hands the packet over,
and so does the block's step: to ROOT, with ParseOk, where no operator is open; else as the last subpacket of the top
frame, whose mode names the next state. -/
def Obligations.CompletedPacketIsHandedOver : Prop :=
  ∀ (i : Instr) (p : Packet) (s : State), i.version = some p.version → i.typeId = some p.typeId → s.st = .done →
    s.ret = some p → s.request = none →
    step s = exec i s ∧
    (s.stack = [] → exec i s = .next { s with root := some p, ret := none, st := .parseOk }) ∧
    (∀ f rest, s.stack = f :: rest → exec i s = .next { s with
      stack := { f with kids := f.kids.snoc p } :: rest, ret := none,
      st := match f.mode with | .byLength => .parsingSubpacketsByLength | .byCount => .parsingSubpacketsByCount })

/-- R153: appending puts a packet last and keeps the ones before it in order. -/
def Obligations.SubpacketsKeepTheirOrder : Prop :=
  ∀ (ps : Packets) (p : Packet), (ps.snoc p).toList = ps.toList ++ [p] ∧ (ps.snoc p).length = ps.length + 1

/-! ## The Evaluator and the VersionSummer -/

/-- R38, R170, R181, R183: in ParseOk before the results are set, with a literal of its version in ROOT, LIT sets VSUM to
the version and VALUE to the literal value, and EFAULT stays none; the block's step does the same. -/
def Obligations.LiteralEvaluates : Prop :=
  ∀ (v : Version) (groups : List Nibble) (x : Nat) (s : State), s.st = .parseOk → s.vsum = none → s.request = none →
    s.root = some (.literal v 4 x) →
    step s = exec (.lit v groups) s ∧
    exec (.lit v groups) s = .next { s with vsum := some v.toNat, value := some x, efault := none }

/-- R171 to R174, R179, R181, R183: in ParseOk before the results are set, with an operator packet of its version and type
in ROOT whose subpackets have the values vs, the arithmetic instructions set VSUM to the version sum and VALUE to: the sum
(SUM.L, SUM.C); the product (PRODUCT.L, PRODUCT.C); the least (MINIMUM.L, MINIMUM.C); the greatest (MAXIMUM.L,
MAXIMUM.C), the last three for at least one subpacket. -/
def Obligations.ArithmeticPacketsEvaluate : Prop :=
  ∀ (i : Instr) (v : Version) (y : TypeId) (subs : Packets) (vs : List Nat) (s : State), i.version = some v →
    i.typeId = some y → s.st = .parseOk → s.vsum = none → s.root = some (.operator v y subs) → valuesOf subs = .ok vs →
    (y = 0 → exec i s = .next { s with
      vsum := some (v.toNat + vsumAll subs), value := some vs.sum, efault := none }) ∧
    (y = 1 → vs ≠ [] → exec i s = .next { s with
      vsum := some (v.toNat + vsumAll subs), value := some vs.prod, efault := none }) ∧
    (y = 2 → vs ≠ [] → ∃ m, m ∈ vs ∧ (∀ x ∈ vs, m ≤ x) ∧ exec i s = .next { s with
      vsum := some (v.toNat + vsumAll subs), value := some m, efault := none }) ∧
    (y = 3 → vs ≠ [] → ∃ m, m ∈ vs ∧ (∀ x ∈ vs, x ≤ m) ∧ exec i s = .next { s with
      vsum := some (v.toNat + vsumAll subs), value := some m, efault := none })

/-- R175, R176, R177, R181, R183, R187: in ParseOk before the results are set, with an operator packet of its version and
type in ROOT whose two subpackets have the values a and b in that order, the comparison instructions set VSUM to the
version sum and VALUE to 1 or 0: a > b (GT.L, GT.C), a < b (LT.L, LT.C), a = b (EQ.L, EQ.C). -/
def Obligations.ComparisonPacketsEvaluate : Prop :=
  ∀ (i : Instr) (v : Version) (y : TypeId) (p q : Packet) (a b : Nat) (s : State), i.version = some v →
    i.typeId = some y → s.st = .parseOk → s.vsum = none → s.root = some (.operator v y (.cons p (.cons q .nil))) →
    valueOf p = .ok a → valueOf q = .ok b →
    (y = 5 → exec i s = .next { s with
      vsum := some (v.toNat + (vsumOf p + vsumOf q)), value := some (if a > b then 1 else 0), efault := none }) ∧
    (y = 6 → exec i s = .next { s with
      vsum := some (v.toNat + (vsumOf p + vsumOf q)), value := some (if a < b then 1 else 0), efault := none }) ∧
    (y = 7 → exec i s = .next { s with
      vsum := some (v.toNat + (vsumOf p + vsumOf q)), value := some (if a = b then 1 else 0), efault := none })

/-- R172 to R177, R183, R205, R206: where the number of subpackets is not one the type allows, the evaluation sets EFAULT
and leaves VALUE none, and VSUM is still set: EmptySubpackets for PRODUCT, MINIMUM and MAXIMUM of none, WrongArity with
the number for a comparison of any number but two. SUM of none is no fault: its value is 0. -/
def Obligations.WrongSubpacketNumberFaults : Prop :=
  ∀ (i : Instr) (v : Version) (y : TypeId) (subs : Packets) (s : State), i.version = some v → i.typeId = some y →
    s.st = .parseOk → s.vsum = none → s.root = some (.operator v y subs) →
    ((y = 1 ∨ y = 2 ∨ y = 3) → subs = .nil → exec i s = .next { s with
      vsum := some v.toNat, value := none, efault := some (.emptySubpackets y) }) ∧
    ((y = 5 ∨ y = 6 ∨ y = 7) → subs.length ≠ 2 → exec i s = .next { s with
      vsum := some (v.toNat + vsumAll subs), value := none, efault := some (.wrongArity y subs.length) }) ∧
    (y = 0 → subs = .nil → exec i s = .next { s with vsum := some v.toNat, value := some 0, efault := none })

/-- R179, D21: an operator whose own test passes gives the fault of the first of its subpackets that faults, whatever
stands after it; a comparison whose own test fails gives WrongArity whatever its subpackets would give. -/
def Obligations.FirstFaultingSubpacketIsReported : Prop :=
  (∀ (v : Version) (y : TypeId) (subs : Packets) (before after : List Packet) (p : Packet) (e : FaultRecord), y ≠ 4 →
    subs.toList = before ++ p :: after → (∀ q ∈ before, ∃ n, valueOf q = .ok n) → valueOf p = .error e →
    (y = 5 ∨ y = 6 ∨ y = 7 → subs.length = 2) → valueOf (.operator v y subs) = .error e) ∧
  (∀ (v : Version) (y : TypeId) (subs : Packets), y = 5 ∨ y = 6 ∨ y = 7 → subs.length ≠ 2 →
    valueOf (.operator v y subs) = .error (.wrongArity y subs.length))

/-- R178, R204: no line's tree gives InvalidTypeId, nor does any tree in which type 4 and the Literal body go together; the
operator of type 4 that can be written down gives it. -/
def Obligations.InvalidTypeIdIsUnreachable : Prop :=
  (∀ (line : List CharCode) (r : Packet) (q : Nat) (y : TypeId), parseLine line = .ok (r, q) →
    valueOf r ≠ .error (.invalidTypeId y)) ∧
  (∀ (p : Packet) (y : TypeId), p.typed = true → valueOf p ≠ .error (.invalidTypeId y)) ∧
  (∀ (v : Version) (subs : Packets), valueOf (.operator v 4 subs) = .error (.invalidTypeId 4))

/-- R182: the version sum of a tree is at most seven times its number of packets, and that of a line's tree at most
`7 * floor(LEN/11)`. -/
def Obligations.VersionSumIsBounded : Prop :=
  (∀ p : Packet, vsumOf p ≤ 7 * packetCount p) ∧
  (∀ (line : List CharCode) (r : Packet) (q : Nat), parseLine line = .ok (r, q) →
    vsumOf r ≤ 7 * (4 * line.length / 11))

/-- R36: the event list determines the tree, for every tree in which type 4 and the Literal body go together. -/
def Obligations.EventsDetermineTheTree : Prop :=
  ∀ p q : Packet, p.typed = true → q.typed = true → events p = events q → p = q

/-! ## The step -/

/-- A step of a state with no host action waiting runs the instruction in progress; where a packet starts that is the
instruction the decoder reads from the unread bits, and in Loading the character instruction of `IN[CI]`. That a step runs
an instruction, and which one is in progress, is the model's own notion, DEDUCED in log entry 4: the spec states steps by
state. -/
def Obligations.StepRunsTheDecodedInstruction : Prop :=
  (∀ (s : State) (i : Instr), s.request = none → instrInProgress s = some i → step s = exec i s) ∧
  (∀ (s : State) (i : Instr) (rest : List Bit), s.request = none → s.st = .readingHeader →
    decodeBits (unread s) = .ok (i, rest) → step s = exec i s) ∧
  (∀ (s : State) (i : Instr) (c : CharCode), s.request = none → s.st = .loading → s.input[s.ci]? = some c →
    decodeChar c = .ok i → step s = exec i s)

/-- R113, R137 to R144, R157: with no host action waiting, a step is exactly the state rule of ST, every field read from
BITMEM at POS: what the instructions do with the operands the decoder delivered is what the state machine of the spec
does. -/
def Obligations.StepFollowsTheStateRules : Prop := ∀ s : State, s.request = none → step s = sequencer s

/-- R137, R139 to R143: an operator stays the instruction in progress, with its operands, from its header until its frame
has been opened. -/
def Obligations.OperatorStaysInProgress : Prop :=
  ∀ (s t : State) (i : Instr), s.request = none → (i.format = .opL ∨ i.format = .opC) → instrInProgress s = some i →
    step s = .next t →
    (s.st = .readingHeader ∨ s.st = .readingLengthTypeFlag ∨ s.st = .readingTotalLengthPrefix ∨
      s.st = .readingSubpacketCount) → instrInProgress t = some i

/-- R145: every step without a host action goes along an edge of the transition graph. -/
def Obligations.StepsFollowTheTransitionGraph : Prop :=
  ∀ s t : State, s.request = none → step s = .next t → edge s.st t.st = true

/-- R25, R127, R236, R237: outside Loading no step without a host action changes the line, CI, BITMEM or LEN, none but the
one in Done writes ROOT, and POS never goes down. -/
def Obligations.OnlyTheCursorMovesForward : Prop :=
  ∀ s t : State, s.request = none → s.st ≠ .loading → step s = .next t →
    t.input = s.input ∧ t.ci = s.ci ∧ t.bitmem = s.bitmem ∧ t.len = s.len ∧ s.pos ≤ t.pos ∧
    (s.st ≠ .done → t.root = s.root)

/-- R27 to R38: the frame of the 15 packet instructions, by the state they act in: IN, CI, LEN and every bit of BITMEM are
unchanged; VER and TID are written in ReadingHeader only, CFLAG in ReadingLiteralGroup only, LTID in ReadingLengthTypeFlag
only, ACC in the first two only, STACK in the two prefix states, the two ParsingSubpackets states and Done only, RET in
ReadingLiteralGroup, the ParsingSubpackets states and Done only, ROOT in Done only, the result registers in ParseOk only,
and FAULT only together with Faulted. -/
def Obligations.PacketFrame : Prop :=
  ∀ (i : Instr) (s t : State), i.format ≠ .hexChar → exec i s = .next t →
    (∀ a, Memory.read t.bitmem a = Memory.read s.bitmem a) ∧
    t.input = s.input ∧ t.ci = s.ci ∧ t.len = s.len ∧ t.request = s.request ∧
    (s.st ≠ .readingHeader → t.ver = s.ver ∧ t.tid = s.tid) ∧
    (s.st ≠ .readingLiteralGroup → t.cflag = s.cflag) ∧
    (s.st ≠ .readingLengthTypeFlag → t.ltid = s.ltid) ∧
    (s.st ≠ .readingHeader → s.st ≠ .readingLiteralGroup → t.acc = s.acc) ∧
    (s.st = .readingHeader ∨ s.st = .readingLiteralGroup ∨ s.st = .readingLengthTypeFlag ∨ s.st = .parseOk →
      t.stack = s.stack) ∧
    (s.st = .readingHeader ∨ s.st = .readingLengthTypeFlag ∨ s.st = .readingTotalLengthPrefix ∨
      s.st = .readingSubpacketCount ∨ s.st = .parseOk → t.ret = s.ret) ∧
    (s.st ≠ .done → t.root = s.root) ∧
    (s.st ≠ .parseOk → t.vsum = s.vsum ∧ t.value = s.value ∧ t.efault = s.efault) ∧
    (t.st ≠ .faulted → t.fault = s.fault)

/-- R123, R137 to R142, R202: in each of the five reading states, a step with too few bits left raises UnexpectedEof for the
read that fails; of a rule with two reads the first one stays done, POS advanced and VER or CFLAG written. -/
def Obligations.TruncatedReadsRaiseUnexpectedEof : Prop :=
  ∀ s : State, s.request = none →
    (s.st = .readingHeader → s.len - s.pos < 3 →
      step s = .next { s with fault := some (.unexpectedEof 3 (s.len - s.pos) s.pos), st := .faulted }) ∧
    (s.st = .readingHeader → 3 ≤ s.len - s.pos → s.len - s.pos < 6 → ∀ v, memRead 3 s.bitmem s.pos = some v →
      step s = .next { s with
        pos := s.pos + 3, ver := v, fault := some (.unexpectedEof 3 (s.len - s.pos - 3) (s.pos + 3)), st := .faulted }) ∧
    (s.st = .readingLiteralGroup → s.len - s.pos < 1 →
      step s = .next { s with fault := some (.unexpectedEof 1 0 s.pos), st := .faulted }) ∧
    (s.st = .readingLiteralGroup → 1 ≤ s.len - s.pos → s.len - s.pos < 5 → ∀ f, memRead 1 s.bitmem s.pos = some f →
      step s = .next { s with
        pos := s.pos + 1, cflag := f, fault := some (.unexpectedEof 4 (s.len - s.pos - 1) (s.pos + 1)),
        st := .faulted }) ∧
    (s.st = .readingLengthTypeFlag → s.len - s.pos < 1 →
      step s = .next { s with fault := some (.unexpectedEof 1 0 s.pos), st := .faulted }) ∧
    (s.st = .readingTotalLengthPrefix → s.len - s.pos < 15 →
      step s = .next { s with fault := some (.unexpectedEof 15 (s.len - s.pos) s.pos), st := .faulted }) ∧
    (s.st = .readingSubpacketCount → s.len - s.pos < 11 →
      step s = .next { s with fault := some (.unexpectedEof 11 (s.len - s.pos) s.pos), st := .faulted })

/-- R157, R232: in Idle, in Faulted, and in ParseOk once the results are set, no step is enabled while no host action
waits. -/
def Obligations.HaltedStatesHaveNoStep : Prop :=
  ∀ s : State, s.request = none → halted s = true → step s = .refused .halted

/-! ## The host -/

/-- R230: RESET is enabled in every state and gives every register its reset value (VER, TID, CFLAG, LTID and ACC are
unspecified there and are not named here). -/
def Obligations.ResetFromEveryState : Prop :=
  ∀ s : State, s.request = some .reset → ∃ t, step s = .next t ∧ t.st = .idle ∧ t.ci = 0 ∧ t.len = 0 ∧ t.pos = 0 ∧
    t.stack = [] ∧ t.ret = none ∧ t.root = none ∧ t.fault = none ∧ t.vsum = none ∧ t.value = none ∧ t.efault = none ∧
    t.input = [] ∧ (∀ a, Memory.read t.bitmem a = none) ∧ hostView t = .nothing

/-- R231, R41, U7: START in Idle, ParseOk and Faulted gives the registers their reset values, takes the line into IN and goes
to Loading (VER, TID, CFLAG, LTID and ACC are unspecified there and are not named here); in every other state it is refused
by name. With MAX_CHARS unbounded, the spec's default, log entry 5. -/
def Obligations.StartClearsAndLoads : Prop :=
  ∀ (s : State) (line : List CharCode), s.request = some (.start line) →
    (s.st = .idle ∨ s.st = .parseOk ∨ s.st = .faulted → ∃ t, step s = .next t ∧ t.st = .loading ∧ t.input = line ∧
      t.ci = 0 ∧ t.len = 0 ∧ t.pos = 0 ∧ t.stack = [] ∧ t.ret = none ∧ t.root = none ∧ t.fault = none ∧ t.vsum = none ∧
      t.value = none ∧ t.efault = none ∧ t.request = none ∧ (∀ a, Memory.read t.bitmem a = none)) ∧
    (s.st ≠ .idle → s.st ≠ .parseOk → s.st ≠ .faulted → step s = .refused .startWhileBusy)

/-- D7, U5, R244: under a finite MAX_CHARS a longer line is refused by name and not truncated, and a line that fits is
taken as it is (a finite MAX_CHARS: log entry 5). The state after it is named whole: VER, TID, CFLAG, LTID and ACC, which R41
leaves unspecified, are the model's 0 there, log entry 1. -/
def Obligations.TooLongLinesAreRefused : Prop :=
  ∀ (m : Nat) (s : State) (line : List CharCode), s.st = .idle ∨ s.st = .parseOk ∨ s.st = .faulted →
    (m < line.length → startWith (some m) line s = .refused .lineTooLong) ∧
    (line.length ≤ m → startWith (some m) line s = .next (started line))

/-- R213, R214, R231: the outcome of a line does not depend on what the block was before: after START every halted state
gives the same run, faulted or not. It holds of VER, TID, CFLAG, LTID and ACC too, because the model gives them one value
at START, log entry 1. -/
def Obligations.LinesAreIndependent : Prop :=
  ∀ (s s' : State) (line : List CharCode), s.request = some (.start line) → s'.request = some (.start line) →
    halted s = true → halted s' = true → ∀ k, run (k + 1) s = run (k + 1) s'

/-- R42, R36: what the host may read: nothing while a run is in progress and in Idle; in Faulted the fault alone; in ParseOk
the tree, its version sum, its value or evaluation fault, and POS and LEN; the tree never before ParseOk. -/
def Obligations.HostSeesOnlyOutcomes : Prop :=
  ∀ s : State,
    (busy s = true → hostView s = .nothing) ∧ (s.st = .idle → hostView s = .nothing) ∧
    (∀ f, s.st = .faulted → s.fault = some f → hostView s = .fault f) ∧
    (∀ r n x, s.st = .parseOk → s.root = some r → s.vsum = some n → s.value = some x →
      hostView s = .parsed r n (.ok x) s.pos s.len) ∧
    (∀ r n e, s.st = .parseOk → s.root = some r → s.vsum = some n → s.value = none → s.efault = some e →
      hostView s = .parsed r n (.error e) s.pos s.len) ∧
    (s.st ≠ .parseOk → rootPort s = none)

/-! ## Invariants -/

/-- R150, R34: the parser's invariant (`POS <= LEN`; frames whose type is no literal's, whose mark is not ahead of POS and
which have no more subpackets than counted; marks rising towards the top; the type and the top frame's mode ST asks for;
packets of the right shape) is kept by every step. -/
def Obligations.ParserInvariantIsKept : Prop := ∀ s t : State, ParserInv s → step s = .next t → ParserInv t

/-- R23, R24, R61: that BITMEM is exactly the decoding of the characters taken so far, and that in the parser's states and
ParseOk all characters are taken and LEN is four times their number, is kept by every step. -/
def Obligations.StoreInvariantIsKept : Prop := ∀ s t : State, StoreInv s → step s = .next t → StoreInv t

/-- R32, R35, R37, R38: that RET, ROOT, FAULT and the results are set exactly where ST says is kept by every step. -/
def Obligations.ResultInvariantIsKept : Prop := ∀ s t : State, ResultInv s → step s = .next t → ResultInv t

/-- R41: the state after RESET satisfies all three invariants. -/
def Obligations.ResetSatisfiesTheInvariants : Prop := RunInv State.reset

/-- The canonical form of BITMEM (the model's own: log entry 2) is kept by every step and holds at reset. -/
def Obligations.BitStoreStaysCanonical : Prop :=
  Memory.wf State.reset.bitmem = true ∧
  ∀ s t : State, Memory.wf s.bitmem = true → step s = .next t → Memory.wf t.bitmem = true

/-- R70, R150, U5, U6, U7: in a state that satisfies the invariants a step never meets a machine fault or a refusal of the
model's own; it stops only where no step is enabled or where the host breaks the protocol. -/
def Obligations.NoStepGetsStuck : Prop := ∀ s : State, RunInv s → allowedStop (step s)

/-- R8 b, R31, R244: the stack never grows beyond one frame for every 18 bits read, so its depth is at most LEN/18. -/
def Obligations.StackDepthIsBounded : Prop :=
  (∀ s t : State, ParserInv s → DepthInv s → step s = .next t → DepthInv t) ∧
  DepthInv State.reset ∧ (∀ s : State, ParserInv s → DepthInv s → s.stack.length ≤ s.len / 18)

/-- R201, R202, R203, R216: what FAULT holds is precise: MalformedHex names an
invalid character of IN at its index; UnexpectedEof names a width the parser uses, fewer bits left than that, and the
position they are left at; OverconsumedSubpackets names a count above the declared one. Kept by every step. -/
def Obligations.FaultRecordsArePrecise : Prop :=
  ∀ s t : State, ResultInv s → FaultRecordInv s → step s = .next t → FaultRecordInv t

/-! ## The whole line -/

/-- R136: the reference function never needs more than its recursion bound, and what it returns takes at least 11 bits for
each packet of the tree, all inside the bit sequence (R8 c), in a tree of the right shape (R34 a). -/
def Obligations.ReferenceParseIsBounded : Prop :=
  (∀ (bs : List Bit) (p fuel : Nat), bs.length - p + 1 ≤ fuel → parsePacket bs fuel p ≠ .outOfFuel) ∧
  (∀ (bs : List Bit) (p fuel q : Nat) (r : Packet), parsePacket bs fuel p = .ok (r, q) →
    p + 11 * packetCount r ≤ q ∧ q ≤ bs.length ∧ r.typed = true)

/-- R154: an operator without subpackets, wherever it stands in the bits, parses without fault to Operator of nothing, in 22
bits with a total length of 0 and in 18 bits with a count of 0; evaluated, it gives 0 for SUM, EmptySubpackets for PRODUCT,
MINIMUM and MAXIMUM, and WrongArity for the comparisons. -/
def Obligations.EmptyOperatorsParse : Prop :=
  ∀ (v : Version) (y : TypeId) (front back : List Bit) (fuel : Nat), y ≠ 4 →
    parsePacket (front ++ opLBits y v 0 ++ back) (fuel + 2) front.length = .ok (.operator v y .nil, front.length + 22) ∧
    parsePacket (front ++ opCBits y v 0 ++ back) (fuel + 2) front.length = .ok (.operator v y .nil, front.length + 18) ∧
    (y = 0 → valueOf (.operator v y .nil) = .ok 0) ∧
    (y = 1 ∨ y = 2 ∨ y = 3 → valueOf (.operator v y .nil) = .error (.emptySubpackets y)) ∧
    (y = 5 ∨ y = 6 ∨ y = 7 → valueOf (.operator v y .nil) = .error (.wrongArity y 0))

/-- R148, R93: the bits after the root packet play no part: any other bits in their place, in any number, give the same
tree and the same position. -/
def Obligations.TrailingBitsAreIgnored : Prop :=
  ∀ (bs junk : List Bit) (fuel p q : Nat) (r : Packet), parsePacket bs fuel p = .ok (r, q) →
    parsePacket (bs.take q ++ junk) fuel p = .ok (r, q)

/-- R155, last sentence: a line cut short never gives another tree: it gives the same one, or one of the two parser
faults. -/
def Obligations.TruncationNeverChangesTheTree : Prop :=
  ∀ (front back : List CharCode) (r : Packet) (q : Nat), parseLine (front ++ back) = .ok (r, q) →
    parseLine front = .ok (r, q) ∨
    (∃ n m p, parseLine front = .raised (.unexpectedEof n m p)) ∨
    (∃ e a p, parseLine front = .raised (.overconsumedSubpackets e a p))

/-- R151: every parser step but a raise brings the progress measure down. -/
def Obligations.ParserAlwaysProgresses : Prop :=
  ∀ s t : State, s.request = none → parsing s.st = true → step s = .next t → t.st = .faulted ∨ progress t < progress s

/-- R151: from the start of the parser a successful parse takes at most LEN steps and a faulting one at most LEN + 1.
The start has VER, TID, CFLAG, LTID and ACC at the model's 0, log entry 1. -/
def Obligations.ParserStepsAreBounded : Prop :=
  ∀ (line : List CharCode) (bs : List Bit), decodeLine line = .ok bs → ∃ k t, run k (parserStart line bs) = .next t ∧
    ((t.st = .parseOk ∧ k ≤ bs.length) ∨ (t.st = .faulted ∧ k ≤ bs.length + 1))

/-- R149: started on a decoded line, the state machine reaches ParseOk with ROOT and POS exactly as PARSE_PACKET(0) returns
them, or Faulted with FAULT exactly as PARSE_PACKET(0) raises it. The start has VER, TID, CFLAG, LTID and ACC at the
model's 0, log entry 1. -/
def Obligations.MachineAgreesWithTheReference : Prop :=
  ∀ (line : List CharCode) (bs : List Bit), decodeLine line = .ok bs →
    (∀ r q, parsePacket bs (enoughFuel bs) 0 = .ok (r, q) ↔
      ∃ k t, run k (parserStart line bs) = .next t ∧ t.st = .parseOk ∧ t.root = some r ∧ t.pos = q) ∧
    (∀ f, parsePacket bs (enoughFuel bs) 0 = .raised f ↔
      ∃ k t, run k (parserStart line bs) = .next t ∧ t.st = .faulted ∧ t.fault = some f)

/-- R10, R42, R147, R157, R232: every line's run ends, and what the host then sees is exactly what PARSE, VSUM_OF and
VALUE_OF give for it: the front-end fault, or the tree with its version sum, its value or evaluation fault, and POS and
LEN. The run starts with VER, TID, CFLAG, LTID and ACC at the model's 0, log entry 1. -/
def Obligations.EveryLineEndsWithItsOutcome : Prop :=
  ∀ line : List CharCode, ∃ k t, run k (started line) = .next t ∧ halted t = true ∧
    ((∃ r q, parseLine line = .ok (r, q) ∧
        hostView t = .parsed r (vsumOf r) (valueOf r) q (4 * line.length)) ∨
      (∃ f, parseLine line = .raised f ∧ hostView t = .fault f))
end

