-- ==== Sys2Proof/Laws/Bits.lean ====
section
/-! SUPPORT. The bit order (R11, R61, R62): `be` and `bitsOf` are inverse to each other, and what a decoder of a field
answers. -/

namespace Sys2Proof

theorem be_foldl (bs : List Bit) (n : Nat) :
    bs.foldl (fun acc b => 2 * acc + b.toNat) n = n * 2 ^ bs.length + be bs := by
  induction bs generalizing n with
  | nil => simp [be]
  | cons b bs ih =>
    have h0 := ih (2 * n + b.toNat)
    have h1 := ih (2 * 0 + b.toNat)
    simp only [be, List.foldl_cons, List.length_cons] at *
    rw [h0, h1]
    ring

@[simp] theorem be_nil : be [] = 0 := rfl

theorem be_cons (b : Bit) (bs : List Bit) : be (b :: bs) = b.toNat * 2 ^ bs.length + be bs := by
  simpa [be] using be_foldl bs b.toNat

theorem be_append (as bs : List Bit) : be (as ++ bs) = be as * 2 ^ bs.length + be bs := by
  rw [be, List.foldl_append, be_foldl]; rfl

theorem be_lt (bs : List Bit) : be bs < 2 ^ bs.length := by
  induction bs with
  | nil => simp
  | cons b bs ih =>
    rw [be_cons, List.length_cons, pow_succ]
    cases b <;> simp <;> omega

@[simp] theorem length_bitsOf (w v : Nat) : (bitsOf w v).length = w := by
  induction w <;> simp_all [bitsOf]

@[simp] theorem length_fieldBits {w : Nat} (v : BitVec w) : (fieldBits v).length = w := length_bitsOf _ _

theorem be_bitsOf (w v : Nat) : be (bitsOf w v) = v % 2 ^ w := by
  induction w with
  | zero => simp [bitsOf, Nat.mod_one]
  | succ w ih =>
    rw [bitsOf, be_cons, length_bitsOf, ih, Nat.testBit_eq_decide_div_mod_eq, pow_succ, Nat.mod_mul]
    rcases Nat.mod_two_eq_zero_or_one (v / 2 ^ w) with h | h <;> simp [h, Nat.add_comm]

@[simp] theorem be_fieldBits {w : Nat} (v : BitVec w) : be (fieldBits v) = v.toNat := by
  rw [fieldBits, be_bitsOf, Nat.mod_eq_of_lt v.isLt]

@[simp] theorem fieldOf_fieldBits {w : Nat} (v : BitVec w) : fieldOf w (fieldBits v) = v := by
  rw [fieldOf, be_fieldBits, BitVec.ofNat_toNat, BitVec.setWidth_eq]

theorem bitsOf_be (bs : List Bit) : bitsOf bs.length (be bs) = bs := by
  induction bs with
  | nil => rfl
  | cons b bs ih =>
    have hlt := be_lt bs
    have htest : (be (b :: bs)).testBit bs.length = b := by
      rw [be_cons, Nat.testBit_eq_decide_div_mod_eq, Nat.add_comm, Nat.add_mul_div_right _ _ (Nat.two_pow_pos _),
        Nat.div_eq_of_lt hlt]
      cases b <;> simp
    have hlow : ∀ w n m, n % 2 ^ w = m % 2 ^ w → bitsOf w n = bitsOf w m := by
      intro w
      induction w with
      | zero => intros; rfl
      | succ w ihw =>
        intro n m h
        have ht : n.testBit w = m.testBit w := by
          have := congrArg (fun x => x.testBit w) h
          simpa [Nat.testBit_mod_two_pow] using this
        have hm : n % 2 ^ w = m % 2 ^ w := by
          have := congrArg (· % 2 ^ w) h
          simpa [Nat.mod_mod_of_dvd _ (pow_dvd_pow 2 (Nat.le_succ w))] using this
        rw [bitsOf, bitsOf, ht, ihw n m hm]
    rw [List.length_cons, bitsOf, htest, hlow bs.length _ (be bs) ?_, ih]
    rw [be_cons, Nat.add_comm, Nat.add_mul_mod_self_right]

theorem fieldBits_fieldOf {w : Nat} (bs : List Bit) (h : bs.length = w) : fieldBits (fieldOf w bs) = bs := by
  subst h
  rw [fieldBits, fieldOf, BitVec.toNat_ofNat, Nat.mod_eq_of_lt (be_lt bs), bitsOf_be]

/-- What `takeField` can answer. -/
theorem takeField_ok {w : Nat} {bs rest : List Bit} {v : BitVec w} (h : takeField w bs = .ok (v, rest)) :
    bs = fieldBits v ++ rest := by
  unfold takeField at h
  split at h
  · cases h
  · next hlen =>
    cases h
    rw [fieldBits_fieldOf _ (by simp; omega), List.take_append_drop]

@[simp] theorem takeField_fieldBits {w : Nat} (v : BitVec w) (rest : List Bit) :
    takeField w (fieldBits v ++ rest) = .ok (v, rest) := by
  simp [takeField]

end Sys2Proof
end

