-- ==== Sys2Proof/Laws/Memory.lean ====
section
/-! SUPPORT. BITMEM: a read after a write, a write leaves every other address alone, and every write keeps the canonical
form. -/

namespace Sys2Proof.Machine

@[simp] theorem Memory.read_nil (k : Nat) : Memory.read [] k = none := rfl

/-- A read after a write of one bit. -/
theorem Memory.read_write (m : Memory) (k a : Nat) (b : Bit) :
    Memory.read (Memory.write m k b) a = if a = k then some b else Memory.read m a := by
  induction m with
  | nil => simp [Memory.write, Memory.read, eq_comm]
  | cons e m ih =>
    obtain ⟨x, c⟩ := e
    simp only [Memory.write]
    split
    · simp [Memory.read, eq_comm]
    · split
      · subst_vars; simp only [Memory.read]; split <;> simp_all [eq_comm]
      · next hne =>
        simp only [Memory.read, ih]
        by_cases hx : x = a
        · subst hx; rw [if_pos rfl, if_pos rfl, if_neg (by omega)]
        · rw [if_neg hx, if_neg hx]

/-- A read after a write of several bits. -/
theorem Memory.read_writeBits (m : Memory) (k a : Nat) (bs : List Bit) :
    Memory.read (Memory.writeBits m k bs) a =
      if k ≤ a ∧ a < k + bs.length then bs[a - k]? else Memory.read m a := by
  induction bs generalizing m k with
  | nil => simp [Memory.writeBits]
  | cons b bs ih =>
    simp only [Memory.writeBits, ih, Memory.read_write, List.length_cons]
    by_cases h1 : a = k
    · subst h1; simp
    · by_cases h2 : k + 1 ≤ a ∧ a < k + 1 + bs.length
      · rw [if_pos h2, if_pos (by omega), show a - k = (a - (k + 1)) + 1 by omega]; rfl
      · rw [if_neg h2, if_neg h1, if_neg (by omega)]

theorem Memory.wf_cons (a : Nat) (b : Bit) (m : Memory) :
    Memory.wf ((a, b) :: m) = true ↔ (∀ e ∈ m.head?, a < e.1) ∧ Memory.wf m = true := by
  cases m with
  | nil => simp [Memory.wf]
  | cons e m => simp [Memory.wf]

theorem Memory.head_write (m : Memory) (k : Nat) (b : Bit) (x : Nat) (hx : x < k) (hm : ∀ e ∈ m.head?, x < e.1) :
    ∀ e ∈ (Memory.write m k b).head?, x < e.1 := by
  cases m with
  | nil => simpa [Memory.write] using hx
  | cons e m =>
    obtain ⟨a, c⟩ := e
    simp only [Memory.write]
    split
    · simpa using hx
    · split
      · simpa using hx
      · simpa using hm

/-- A write of one bit keeps the canonical form. -/
theorem Memory.wf_write (m : Memory) (k : Nat) (b : Bit) (h : Memory.wf m = true) :
    Memory.wf (Memory.write m k b) = true := by
  induction m with
  | nil => rfl
  | cons e m ih =>
    obtain ⟨a, c⟩ := e
    have ⟨hhead, htail⟩ := (Memory.wf_cons a c m).1 h
    simp only [Memory.write]
    split
    · next hk => exact (Memory.wf_cons _ _ _).2 ⟨by simpa using hk, h⟩
    · split
      · next hk => subst hk; exact (Memory.wf_cons _ _ _).2 ⟨hhead, htail⟩
      · exact (Memory.wf_cons _ _ _).2 ⟨Memory.head_write m k b a (by omega) hhead, ih htail⟩

/-- A write of several bits keeps the canonical form. -/
theorem Memory.wf_writeBits (m : Memory) (k : Nat) (bs : List Bit) (h : Memory.wf m = true) :
    Memory.wf (Memory.writeBits m k bs) = true := by
  induction bs generalizing m k with
  | nil => exact h
  | cons b bs ih => exact ih _ _ (Memory.wf_write m k b h)

/-- MemWrite keeps the canonical form. -/
theorem wf_memWrite {w : Nat} (m : Memory) (p : Nat) (v : BitVec w) (h : Memory.wf m = true) :
    Memory.wf (memWrite m p v) = true := Memory.wf_writeBits m p _ h

/-- MemWrite leaves every address outside its w bits as it was. -/
theorem read_memWrite_outside {w : Nat} (m : Memory) (p a : Nat) (v : BitVec w) (h : a < p ∨ p + w ≤ a) :
    Memory.read (memWrite m p v) a = Memory.read m a := by
  rw [memWrite, Memory.read_writeBits, if_neg (by simp; omega)]

theorem Memory.length_readBits {m : Memory} {p n : Nat} {bs : List Bit} (h : Memory.readBits m p n = some bs) :
    bs.length = n := by
  induction n generalizing p bs with
  | zero => cases h; rfl
  | succ n ih =>
    simp only [Memory.readBits] at h
    split at h
    · cases h
    · obtain ⟨t, ht, rfl⟩ := Option.map_eq_some_iff.1 h
      simp [ih ht]

/-- Bits are read exactly where each of them is. -/
theorem Memory.readBits_eq_some {m : Memory} {p n : Nat} {bs : List Bit} :
    Memory.readBits m p n = some bs ↔ bs.length = n ∧ ∀ k, k < n → Memory.read m (p + k) = bs[k]? := by
  induction n generalizing p bs with
  | zero => simp [Memory.readBits, eq_comm]
  | succ n ih =>
    simp only [Memory.readBits]
    constructor
    · intro h
      split at h
      · cases h
      · next b hb =>
        obtain ⟨t, ht, rfl⟩ := Option.map_eq_some_iff.1 h
        obtain ⟨hl, hr⟩ := ih.1 ht
        refine ⟨by simp [hl], fun k hk => ?_⟩
        cases k with
        | zero => simpa using hb
        | succ k => simpa [Nat.add_assoc, Nat.add_comm 1 k] using hr k (by omega)
    · rintro ⟨hl, hr⟩
      cases bs with
      | nil => simp at hl
      | cons b t =>
        have h0 := hr 0 (by omega)
        simp only [Nat.add_zero, List.getElem?_cons_zero] at h0
        rw [h0]
        simp only [Option.map_eq_some_iff]
        refine ⟨t, ih.2 ⟨by simpa using hl, fun k hk => ?_⟩, rfl⟩
        simpa [Nat.add_assoc, Nat.add_comm 1 k] using hr (k + 1) (by omega)

/-- MemRead of what MemWrite put there. -/
theorem memRead_memWrite {w : Nat} (m : Memory) (p : Nat) (v : BitVec w) : memRead w (memWrite m p v) p = some v := by
  have h : Memory.readBits (memWrite m p v) p w = some (fieldBits v) := by
    rw [Memory.readBits_eq_some]
    refine ⟨length_fieldBits v, fun k hk => ?_⟩
    rw [memWrite, Memory.read_writeBits, if_pos (by simp; omega), Nat.add_sub_cancel_left]
  rw [memRead, h, Option.map_some, fieldOf_fieldBits]

/-- A contiguous read splits into two (R63). -/
theorem Memory.readBits_add (m : Memory) (p n k : Nat) :
    Memory.readBits m p (n + k) =
      match Memory.readBits m p n, Memory.readBits m (p + n) k with
      | some as, some bs => some (as ++ bs)
      | _, _ => none := by
  induction n generalizing p with
  | zero => simp only [Nat.zero_add, Nat.add_zero, Memory.readBits]; cases Memory.readBits m p k <;> rfl
  | succ n ih =>
    rw [Nat.add_right_comm, Memory.readBits, Memory.readBits]
    cases hb : Memory.read m p with
    | none => rfl
    | some b =>
      simp only [ih, show p + (n + 1) = p + 1 + n by omega]
      cases Memory.readBits m (p + 1) n <;> cases Memory.readBits m (p + 1 + n) k <;> rfl

/-- A window is a prefix of what can be read. -/
theorem Memory.readBits_of_window (m : Memory) {p n w : Nat} (h : w ≤ (Memory.window m p n).length) :
    Memory.readBits m p w = some ((Memory.window m p n).take w) := by
  induction n generalizing p w with
  | zero => simp only [Memory.window, List.length_nil, Nat.le_zero] at h; subst h; rfl
  | succ n ih =>
    cases w with
    | zero => rfl
    | succ w =>
      simp only [Memory.window] at h ⊢
      simp only [Memory.readBits]
      cases hb : Memory.read m p with
      | none => simp [hb] at h
      | some b =>
        simp only [hb, List.length_cons] at h
        simp [ih (show w ≤ (Memory.window m (p + 1) n).length by omega)]

theorem Memory.length_window_le (m : Memory) (p n : Nat) : (Memory.window m p n).length ≤ n := by
  induction n generalizing p with
  | zero => simp [Memory.window]
  | succ n ih =>
    simp only [Memory.window]
    cases Memory.read m p with
    | none => simp
    | some b => simpa using ih (p + 1)

/-- A window that starts later is the rest of the window. -/
theorem Memory.drop_window (m : Memory) (p n w : Nat) (h : w ≤ (Memory.window m p n).length) :
    (Memory.window m p n).drop w = Memory.window m (p + w) (n - w) := by
  induction w generalizing p n with
  | zero => simp
  | succ w ih =>
    cases n with
    | zero => simp [Memory.window] at h
    | succ n =>
      simp only [Memory.window] at h ⊢
      cases hb : Memory.read m p with
      | none => simp [hb] at h
      | some b =>
        simp only [hb, List.length_cons] at h
        simp only [List.drop_succ_cons]
        rw [ih (p + 1) n (by omega), show p + 1 + w = p + (w + 1) by omega, show n + 1 - (w + 1) = n - w by omega]

end Sys2Proof.Machine
end

