-- ==== Sys2Proof/Laws/State.lean ====
section
/-! SUPPORT. One lemma per field per register write: the written field holds the new value, every other field is as it
was. With these no proof unfolds a record update. -/

namespace Sys2Proof.Machine

variable (s : State)

/-! ### setCi -/

@[simp] theorem State.setCi_input (x : Nat) : (s.setCi x).input = s.input := rfl
@[simp] theorem State.setCi_ci (x : Nat) : (s.setCi x).ci = x := rfl
@[simp] theorem State.setCi_bitmem (x : Nat) : (s.setCi x).bitmem = s.bitmem := rfl
@[simp] theorem State.setCi_len (x : Nat) : (s.setCi x).len = s.len := rfl
@[simp] theorem State.setCi_pos (x : Nat) : (s.setCi x).pos = s.pos := rfl
@[simp] theorem State.setCi_st (x : Nat) : (s.setCi x).st = s.st := rfl
@[simp] theorem State.setCi_ver (x : Nat) : (s.setCi x).ver = s.ver := rfl
@[simp] theorem State.setCi_tid (x : Nat) : (s.setCi x).tid = s.tid := rfl
@[simp] theorem State.setCi_cflag (x : Nat) : (s.setCi x).cflag = s.cflag := rfl
@[simp] theorem State.setCi_ltid (x : Nat) : (s.setCi x).ltid = s.ltid := rfl
@[simp] theorem State.setCi_acc (x : Nat) : (s.setCi x).acc = s.acc := rfl
@[simp] theorem State.setCi_stack (x : Nat) : (s.setCi x).stack = s.stack := rfl
@[simp] theorem State.setCi_ret (x : Nat) : (s.setCi x).ret = s.ret := rfl
@[simp] theorem State.setCi_root (x : Nat) : (s.setCi x).root = s.root := rfl
@[simp] theorem State.setCi_fault (x : Nat) : (s.setCi x).fault = s.fault := rfl
@[simp] theorem State.setCi_vsum (x : Nat) : (s.setCi x).vsum = s.vsum := rfl
@[simp] theorem State.setCi_value (x : Nat) : (s.setCi x).value = s.value := rfl
@[simp] theorem State.setCi_efault (x : Nat) : (s.setCi x).efault = s.efault := rfl
@[simp] theorem State.setCi_request (x : Nat) : (s.setCi x).request = s.request := rfl

/-! ### setBitmem -/

@[simp] theorem State.setBitmem_input (x : Memory) : (s.setBitmem x).input = s.input := rfl
@[simp] theorem State.setBitmem_ci (x : Memory) : (s.setBitmem x).ci = s.ci := rfl
@[simp] theorem State.setBitmem_bitmem (x : Memory) : (s.setBitmem x).bitmem = x := rfl
@[simp] theorem State.setBitmem_len (x : Memory) : (s.setBitmem x).len = s.len := rfl
@[simp] theorem State.setBitmem_pos (x : Memory) : (s.setBitmem x).pos = s.pos := rfl
@[simp] theorem State.setBitmem_st (x : Memory) : (s.setBitmem x).st = s.st := rfl
@[simp] theorem State.setBitmem_ver (x : Memory) : (s.setBitmem x).ver = s.ver := rfl
@[simp] theorem State.setBitmem_tid (x : Memory) : (s.setBitmem x).tid = s.tid := rfl
@[simp] theorem State.setBitmem_cflag (x : Memory) : (s.setBitmem x).cflag = s.cflag := rfl
@[simp] theorem State.setBitmem_ltid (x : Memory) : (s.setBitmem x).ltid = s.ltid := rfl
@[simp] theorem State.setBitmem_acc (x : Memory) : (s.setBitmem x).acc = s.acc := rfl
@[simp] theorem State.setBitmem_stack (x : Memory) : (s.setBitmem x).stack = s.stack := rfl
@[simp] theorem State.setBitmem_ret (x : Memory) : (s.setBitmem x).ret = s.ret := rfl
@[simp] theorem State.setBitmem_root (x : Memory) : (s.setBitmem x).root = s.root := rfl
@[simp] theorem State.setBitmem_fault (x : Memory) : (s.setBitmem x).fault = s.fault := rfl
@[simp] theorem State.setBitmem_vsum (x : Memory) : (s.setBitmem x).vsum = s.vsum := rfl
@[simp] theorem State.setBitmem_value (x : Memory) : (s.setBitmem x).value = s.value := rfl
@[simp] theorem State.setBitmem_efault (x : Memory) : (s.setBitmem x).efault = s.efault := rfl
@[simp] theorem State.setBitmem_request (x : Memory) : (s.setBitmem x).request = s.request := rfl

/-! ### setLen -/

@[simp] theorem State.setLen_input (x : Nat) : (s.setLen x).input = s.input := rfl
@[simp] theorem State.setLen_ci (x : Nat) : (s.setLen x).ci = s.ci := rfl
@[simp] theorem State.setLen_bitmem (x : Nat) : (s.setLen x).bitmem = s.bitmem := rfl
@[simp] theorem State.setLen_len (x : Nat) : (s.setLen x).len = x := rfl
@[simp] theorem State.setLen_pos (x : Nat) : (s.setLen x).pos = s.pos := rfl
@[simp] theorem State.setLen_st (x : Nat) : (s.setLen x).st = s.st := rfl
@[simp] theorem State.setLen_ver (x : Nat) : (s.setLen x).ver = s.ver := rfl
@[simp] theorem State.setLen_tid (x : Nat) : (s.setLen x).tid = s.tid := rfl
@[simp] theorem State.setLen_cflag (x : Nat) : (s.setLen x).cflag = s.cflag := rfl
@[simp] theorem State.setLen_ltid (x : Nat) : (s.setLen x).ltid = s.ltid := rfl
@[simp] theorem State.setLen_acc (x : Nat) : (s.setLen x).acc = s.acc := rfl
@[simp] theorem State.setLen_stack (x : Nat) : (s.setLen x).stack = s.stack := rfl
@[simp] theorem State.setLen_ret (x : Nat) : (s.setLen x).ret = s.ret := rfl
@[simp] theorem State.setLen_root (x : Nat) : (s.setLen x).root = s.root := rfl
@[simp] theorem State.setLen_fault (x : Nat) : (s.setLen x).fault = s.fault := rfl
@[simp] theorem State.setLen_vsum (x : Nat) : (s.setLen x).vsum = s.vsum := rfl
@[simp] theorem State.setLen_value (x : Nat) : (s.setLen x).value = s.value := rfl
@[simp] theorem State.setLen_efault (x : Nat) : (s.setLen x).efault = s.efault := rfl
@[simp] theorem State.setLen_request (x : Nat) : (s.setLen x).request = s.request := rfl

/-! ### setPos -/

@[simp] theorem State.setPos_input (x : Nat) : (s.setPos x).input = s.input := rfl
@[simp] theorem State.setPos_ci (x : Nat) : (s.setPos x).ci = s.ci := rfl
@[simp] theorem State.setPos_bitmem (x : Nat) : (s.setPos x).bitmem = s.bitmem := rfl
@[simp] theorem State.setPos_len (x : Nat) : (s.setPos x).len = s.len := rfl
@[simp] theorem State.setPos_pos (x : Nat) : (s.setPos x).pos = x := rfl
@[simp] theorem State.setPos_st (x : Nat) : (s.setPos x).st = s.st := rfl
@[simp] theorem State.setPos_ver (x : Nat) : (s.setPos x).ver = s.ver := rfl
@[simp] theorem State.setPos_tid (x : Nat) : (s.setPos x).tid = s.tid := rfl
@[simp] theorem State.setPos_cflag (x : Nat) : (s.setPos x).cflag = s.cflag := rfl
@[simp] theorem State.setPos_ltid (x : Nat) : (s.setPos x).ltid = s.ltid := rfl
@[simp] theorem State.setPos_acc (x : Nat) : (s.setPos x).acc = s.acc := rfl
@[simp] theorem State.setPos_stack (x : Nat) : (s.setPos x).stack = s.stack := rfl
@[simp] theorem State.setPos_ret (x : Nat) : (s.setPos x).ret = s.ret := rfl
@[simp] theorem State.setPos_root (x : Nat) : (s.setPos x).root = s.root := rfl
@[simp] theorem State.setPos_fault (x : Nat) : (s.setPos x).fault = s.fault := rfl
@[simp] theorem State.setPos_vsum (x : Nat) : (s.setPos x).vsum = s.vsum := rfl
@[simp] theorem State.setPos_value (x : Nat) : (s.setPos x).value = s.value := rfl
@[simp] theorem State.setPos_efault (x : Nat) : (s.setPos x).efault = s.efault := rfl
@[simp] theorem State.setPos_request (x : Nat) : (s.setPos x).request = s.request := rfl

/-! ### setSt -/

@[simp] theorem State.setSt_input (x : ParserState) : (s.setSt x).input = s.input := rfl
@[simp] theorem State.setSt_ci (x : ParserState) : (s.setSt x).ci = s.ci := rfl
@[simp] theorem State.setSt_bitmem (x : ParserState) : (s.setSt x).bitmem = s.bitmem := rfl
@[simp] theorem State.setSt_len (x : ParserState) : (s.setSt x).len = s.len := rfl
@[simp] theorem State.setSt_pos (x : ParserState) : (s.setSt x).pos = s.pos := rfl
@[simp] theorem State.setSt_st (x : ParserState) : (s.setSt x).st = x := rfl
@[simp] theorem State.setSt_ver (x : ParserState) : (s.setSt x).ver = s.ver := rfl
@[simp] theorem State.setSt_tid (x : ParserState) : (s.setSt x).tid = s.tid := rfl
@[simp] theorem State.setSt_cflag (x : ParserState) : (s.setSt x).cflag = s.cflag := rfl
@[simp] theorem State.setSt_ltid (x : ParserState) : (s.setSt x).ltid = s.ltid := rfl
@[simp] theorem State.setSt_acc (x : ParserState) : (s.setSt x).acc = s.acc := rfl
@[simp] theorem State.setSt_stack (x : ParserState) : (s.setSt x).stack = s.stack := rfl
@[simp] theorem State.setSt_ret (x : ParserState) : (s.setSt x).ret = s.ret := rfl
@[simp] theorem State.setSt_root (x : ParserState) : (s.setSt x).root = s.root := rfl
@[simp] theorem State.setSt_fault (x : ParserState) : (s.setSt x).fault = s.fault := rfl
@[simp] theorem State.setSt_vsum (x : ParserState) : (s.setSt x).vsum = s.vsum := rfl
@[simp] theorem State.setSt_value (x : ParserState) : (s.setSt x).value = s.value := rfl
@[simp] theorem State.setSt_efault (x : ParserState) : (s.setSt x).efault = s.efault := rfl
@[simp] theorem State.setSt_request (x : ParserState) : (s.setSt x).request = s.request := rfl

/-! ### setVer -/

@[simp] theorem State.setVer_input (x : Version) : (s.setVer x).input = s.input := rfl
@[simp] theorem State.setVer_ci (x : Version) : (s.setVer x).ci = s.ci := rfl
@[simp] theorem State.setVer_bitmem (x : Version) : (s.setVer x).bitmem = s.bitmem := rfl
@[simp] theorem State.setVer_len (x : Version) : (s.setVer x).len = s.len := rfl
@[simp] theorem State.setVer_pos (x : Version) : (s.setVer x).pos = s.pos := rfl
@[simp] theorem State.setVer_st (x : Version) : (s.setVer x).st = s.st := rfl
@[simp] theorem State.setVer_ver (x : Version) : (s.setVer x).ver = x := rfl
@[simp] theorem State.setVer_tid (x : Version) : (s.setVer x).tid = s.tid := rfl
@[simp] theorem State.setVer_cflag (x : Version) : (s.setVer x).cflag = s.cflag := rfl
@[simp] theorem State.setVer_ltid (x : Version) : (s.setVer x).ltid = s.ltid := rfl
@[simp] theorem State.setVer_acc (x : Version) : (s.setVer x).acc = s.acc := rfl
@[simp] theorem State.setVer_stack (x : Version) : (s.setVer x).stack = s.stack := rfl
@[simp] theorem State.setVer_ret (x : Version) : (s.setVer x).ret = s.ret := rfl
@[simp] theorem State.setVer_root (x : Version) : (s.setVer x).root = s.root := rfl
@[simp] theorem State.setVer_fault (x : Version) : (s.setVer x).fault = s.fault := rfl
@[simp] theorem State.setVer_vsum (x : Version) : (s.setVer x).vsum = s.vsum := rfl
@[simp] theorem State.setVer_value (x : Version) : (s.setVer x).value = s.value := rfl
@[simp] theorem State.setVer_efault (x : Version) : (s.setVer x).efault = s.efault := rfl
@[simp] theorem State.setVer_request (x : Version) : (s.setVer x).request = s.request := rfl

/-! ### setTid -/

@[simp] theorem State.setTid_input (x : TypeId) : (s.setTid x).input = s.input := rfl
@[simp] theorem State.setTid_ci (x : TypeId) : (s.setTid x).ci = s.ci := rfl
@[simp] theorem State.setTid_bitmem (x : TypeId) : (s.setTid x).bitmem = s.bitmem := rfl
@[simp] theorem State.setTid_len (x : TypeId) : (s.setTid x).len = s.len := rfl
@[simp] theorem State.setTid_pos (x : TypeId) : (s.setTid x).pos = s.pos := rfl
@[simp] theorem State.setTid_st (x : TypeId) : (s.setTid x).st = s.st := rfl
@[simp] theorem State.setTid_ver (x : TypeId) : (s.setTid x).ver = s.ver := rfl
@[simp] theorem State.setTid_tid (x : TypeId) : (s.setTid x).tid = x := rfl
@[simp] theorem State.setTid_cflag (x : TypeId) : (s.setTid x).cflag = s.cflag := rfl
@[simp] theorem State.setTid_ltid (x : TypeId) : (s.setTid x).ltid = s.ltid := rfl
@[simp] theorem State.setTid_acc (x : TypeId) : (s.setTid x).acc = s.acc := rfl
@[simp] theorem State.setTid_stack (x : TypeId) : (s.setTid x).stack = s.stack := rfl
@[simp] theorem State.setTid_ret (x : TypeId) : (s.setTid x).ret = s.ret := rfl
@[simp] theorem State.setTid_root (x : TypeId) : (s.setTid x).root = s.root := rfl
@[simp] theorem State.setTid_fault (x : TypeId) : (s.setTid x).fault = s.fault := rfl
@[simp] theorem State.setTid_vsum (x : TypeId) : (s.setTid x).vsum = s.vsum := rfl
@[simp] theorem State.setTid_value (x : TypeId) : (s.setTid x).value = s.value := rfl
@[simp] theorem State.setTid_efault (x : TypeId) : (s.setTid x).efault = s.efault := rfl
@[simp] theorem State.setTid_request (x : TypeId) : (s.setTid x).request = s.request := rfl

/-! ### setCflag -/

@[simp] theorem State.setCflag_input (x : Flag) : (s.setCflag x).input = s.input := rfl
@[simp] theorem State.setCflag_ci (x : Flag) : (s.setCflag x).ci = s.ci := rfl
@[simp] theorem State.setCflag_bitmem (x : Flag) : (s.setCflag x).bitmem = s.bitmem := rfl
@[simp] theorem State.setCflag_len (x : Flag) : (s.setCflag x).len = s.len := rfl
@[simp] theorem State.setCflag_pos (x : Flag) : (s.setCflag x).pos = s.pos := rfl
@[simp] theorem State.setCflag_st (x : Flag) : (s.setCflag x).st = s.st := rfl
@[simp] theorem State.setCflag_ver (x : Flag) : (s.setCflag x).ver = s.ver := rfl
@[simp] theorem State.setCflag_tid (x : Flag) : (s.setCflag x).tid = s.tid := rfl
@[simp] theorem State.setCflag_cflag (x : Flag) : (s.setCflag x).cflag = x := rfl
@[simp] theorem State.setCflag_ltid (x : Flag) : (s.setCflag x).ltid = s.ltid := rfl
@[simp] theorem State.setCflag_acc (x : Flag) : (s.setCflag x).acc = s.acc := rfl
@[simp] theorem State.setCflag_stack (x : Flag) : (s.setCflag x).stack = s.stack := rfl
@[simp] theorem State.setCflag_ret (x : Flag) : (s.setCflag x).ret = s.ret := rfl
@[simp] theorem State.setCflag_root (x : Flag) : (s.setCflag x).root = s.root := rfl
@[simp] theorem State.setCflag_fault (x : Flag) : (s.setCflag x).fault = s.fault := rfl
@[simp] theorem State.setCflag_vsum (x : Flag) : (s.setCflag x).vsum = s.vsum := rfl
@[simp] theorem State.setCflag_value (x : Flag) : (s.setCflag x).value = s.value := rfl
@[simp] theorem State.setCflag_efault (x : Flag) : (s.setCflag x).efault = s.efault := rfl
@[simp] theorem State.setCflag_request (x : Flag) : (s.setCflag x).request = s.request := rfl

/-! ### setLtid -/

@[simp] theorem State.setLtid_input (x : Flag) : (s.setLtid x).input = s.input := rfl
@[simp] theorem State.setLtid_ci (x : Flag) : (s.setLtid x).ci = s.ci := rfl
@[simp] theorem State.setLtid_bitmem (x : Flag) : (s.setLtid x).bitmem = s.bitmem := rfl
@[simp] theorem State.setLtid_len (x : Flag) : (s.setLtid x).len = s.len := rfl
@[simp] theorem State.setLtid_pos (x : Flag) : (s.setLtid x).pos = s.pos := rfl
@[simp] theorem State.setLtid_st (x : Flag) : (s.setLtid x).st = s.st := rfl
@[simp] theorem State.setLtid_ver (x : Flag) : (s.setLtid x).ver = s.ver := rfl
@[simp] theorem State.setLtid_tid (x : Flag) : (s.setLtid x).tid = s.tid := rfl
@[simp] theorem State.setLtid_cflag (x : Flag) : (s.setLtid x).cflag = s.cflag := rfl
@[simp] theorem State.setLtid_ltid (x : Flag) : (s.setLtid x).ltid = x := rfl
@[simp] theorem State.setLtid_acc (x : Flag) : (s.setLtid x).acc = s.acc := rfl
@[simp] theorem State.setLtid_stack (x : Flag) : (s.setLtid x).stack = s.stack := rfl
@[simp] theorem State.setLtid_ret (x : Flag) : (s.setLtid x).ret = s.ret := rfl
@[simp] theorem State.setLtid_root (x : Flag) : (s.setLtid x).root = s.root := rfl
@[simp] theorem State.setLtid_fault (x : Flag) : (s.setLtid x).fault = s.fault := rfl
@[simp] theorem State.setLtid_vsum (x : Flag) : (s.setLtid x).vsum = s.vsum := rfl
@[simp] theorem State.setLtid_value (x : Flag) : (s.setLtid x).value = s.value := rfl
@[simp] theorem State.setLtid_efault (x : Flag) : (s.setLtid x).efault = s.efault := rfl
@[simp] theorem State.setLtid_request (x : Flag) : (s.setLtid x).request = s.request := rfl

/-! ### setAcc -/

@[simp] theorem State.setAcc_input (x : Nat) : (s.setAcc x).input = s.input := rfl
@[simp] theorem State.setAcc_ci (x : Nat) : (s.setAcc x).ci = s.ci := rfl
@[simp] theorem State.setAcc_bitmem (x : Nat) : (s.setAcc x).bitmem = s.bitmem := rfl
@[simp] theorem State.setAcc_len (x : Nat) : (s.setAcc x).len = s.len := rfl
@[simp] theorem State.setAcc_pos (x : Nat) : (s.setAcc x).pos = s.pos := rfl
@[simp] theorem State.setAcc_st (x : Nat) : (s.setAcc x).st = s.st := rfl
@[simp] theorem State.setAcc_ver (x : Nat) : (s.setAcc x).ver = s.ver := rfl
@[simp] theorem State.setAcc_tid (x : Nat) : (s.setAcc x).tid = s.tid := rfl
@[simp] theorem State.setAcc_cflag (x : Nat) : (s.setAcc x).cflag = s.cflag := rfl
@[simp] theorem State.setAcc_ltid (x : Nat) : (s.setAcc x).ltid = s.ltid := rfl
@[simp] theorem State.setAcc_acc (x : Nat) : (s.setAcc x).acc = x := rfl
@[simp] theorem State.setAcc_stack (x : Nat) : (s.setAcc x).stack = s.stack := rfl
@[simp] theorem State.setAcc_ret (x : Nat) : (s.setAcc x).ret = s.ret := rfl
@[simp] theorem State.setAcc_root (x : Nat) : (s.setAcc x).root = s.root := rfl
@[simp] theorem State.setAcc_fault (x : Nat) : (s.setAcc x).fault = s.fault := rfl
@[simp] theorem State.setAcc_vsum (x : Nat) : (s.setAcc x).vsum = s.vsum := rfl
@[simp] theorem State.setAcc_value (x : Nat) : (s.setAcc x).value = s.value := rfl
@[simp] theorem State.setAcc_efault (x : Nat) : (s.setAcc x).efault = s.efault := rfl
@[simp] theorem State.setAcc_request (x : Nat) : (s.setAcc x).request = s.request := rfl

/-! ### setStack -/

@[simp] theorem State.setStack_input (x : List Frame) : (s.setStack x).input = s.input := rfl
@[simp] theorem State.setStack_ci (x : List Frame) : (s.setStack x).ci = s.ci := rfl
@[simp] theorem State.setStack_bitmem (x : List Frame) : (s.setStack x).bitmem = s.bitmem := rfl
@[simp] theorem State.setStack_len (x : List Frame) : (s.setStack x).len = s.len := rfl
@[simp] theorem State.setStack_pos (x : List Frame) : (s.setStack x).pos = s.pos := rfl
@[simp] theorem State.setStack_st (x : List Frame) : (s.setStack x).st = s.st := rfl
@[simp] theorem State.setStack_ver (x : List Frame) : (s.setStack x).ver = s.ver := rfl
@[simp] theorem State.setStack_tid (x : List Frame) : (s.setStack x).tid = s.tid := rfl
@[simp] theorem State.setStack_cflag (x : List Frame) : (s.setStack x).cflag = s.cflag := rfl
@[simp] theorem State.setStack_ltid (x : List Frame) : (s.setStack x).ltid = s.ltid := rfl
@[simp] theorem State.setStack_acc (x : List Frame) : (s.setStack x).acc = s.acc := rfl
@[simp] theorem State.setStack_stack (x : List Frame) : (s.setStack x).stack = x := rfl
@[simp] theorem State.setStack_ret (x : List Frame) : (s.setStack x).ret = s.ret := rfl
@[simp] theorem State.setStack_root (x : List Frame) : (s.setStack x).root = s.root := rfl
@[simp] theorem State.setStack_fault (x : List Frame) : (s.setStack x).fault = s.fault := rfl
@[simp] theorem State.setStack_vsum (x : List Frame) : (s.setStack x).vsum = s.vsum := rfl
@[simp] theorem State.setStack_value (x : List Frame) : (s.setStack x).value = s.value := rfl
@[simp] theorem State.setStack_efault (x : List Frame) : (s.setStack x).efault = s.efault := rfl
@[simp] theorem State.setStack_request (x : List Frame) : (s.setStack x).request = s.request := rfl

/-! ### setRet -/

@[simp] theorem State.setRet_input (x : Option Packet) : (s.setRet x).input = s.input := rfl
@[simp] theorem State.setRet_ci (x : Option Packet) : (s.setRet x).ci = s.ci := rfl
@[simp] theorem State.setRet_bitmem (x : Option Packet) : (s.setRet x).bitmem = s.bitmem := rfl
@[simp] theorem State.setRet_len (x : Option Packet) : (s.setRet x).len = s.len := rfl
@[simp] theorem State.setRet_pos (x : Option Packet) : (s.setRet x).pos = s.pos := rfl
@[simp] theorem State.setRet_st (x : Option Packet) : (s.setRet x).st = s.st := rfl
@[simp] theorem State.setRet_ver (x : Option Packet) : (s.setRet x).ver = s.ver := rfl
@[simp] theorem State.setRet_tid (x : Option Packet) : (s.setRet x).tid = s.tid := rfl
@[simp] theorem State.setRet_cflag (x : Option Packet) : (s.setRet x).cflag = s.cflag := rfl
@[simp] theorem State.setRet_ltid (x : Option Packet) : (s.setRet x).ltid = s.ltid := rfl
@[simp] theorem State.setRet_acc (x : Option Packet) : (s.setRet x).acc = s.acc := rfl
@[simp] theorem State.setRet_stack (x : Option Packet) : (s.setRet x).stack = s.stack := rfl
@[simp] theorem State.setRet_ret (x : Option Packet) : (s.setRet x).ret = x := rfl
@[simp] theorem State.setRet_root (x : Option Packet) : (s.setRet x).root = s.root := rfl
@[simp] theorem State.setRet_fault (x : Option Packet) : (s.setRet x).fault = s.fault := rfl
@[simp] theorem State.setRet_vsum (x : Option Packet) : (s.setRet x).vsum = s.vsum := rfl
@[simp] theorem State.setRet_value (x : Option Packet) : (s.setRet x).value = s.value := rfl
@[simp] theorem State.setRet_efault (x : Option Packet) : (s.setRet x).efault = s.efault := rfl
@[simp] theorem State.setRet_request (x : Option Packet) : (s.setRet x).request = s.request := rfl

/-! ### setRoot -/

@[simp] theorem State.setRoot_input (x : Option Packet) : (s.setRoot x).input = s.input := rfl
@[simp] theorem State.setRoot_ci (x : Option Packet) : (s.setRoot x).ci = s.ci := rfl
@[simp] theorem State.setRoot_bitmem (x : Option Packet) : (s.setRoot x).bitmem = s.bitmem := rfl
@[simp] theorem State.setRoot_len (x : Option Packet) : (s.setRoot x).len = s.len := rfl
@[simp] theorem State.setRoot_pos (x : Option Packet) : (s.setRoot x).pos = s.pos := rfl
@[simp] theorem State.setRoot_st (x : Option Packet) : (s.setRoot x).st = s.st := rfl
@[simp] theorem State.setRoot_ver (x : Option Packet) : (s.setRoot x).ver = s.ver := rfl
@[simp] theorem State.setRoot_tid (x : Option Packet) : (s.setRoot x).tid = s.tid := rfl
@[simp] theorem State.setRoot_cflag (x : Option Packet) : (s.setRoot x).cflag = s.cflag := rfl
@[simp] theorem State.setRoot_ltid (x : Option Packet) : (s.setRoot x).ltid = s.ltid := rfl
@[simp] theorem State.setRoot_acc (x : Option Packet) : (s.setRoot x).acc = s.acc := rfl
@[simp] theorem State.setRoot_stack (x : Option Packet) : (s.setRoot x).stack = s.stack := rfl
@[simp] theorem State.setRoot_ret (x : Option Packet) : (s.setRoot x).ret = s.ret := rfl
@[simp] theorem State.setRoot_root (x : Option Packet) : (s.setRoot x).root = x := rfl
@[simp] theorem State.setRoot_fault (x : Option Packet) : (s.setRoot x).fault = s.fault := rfl
@[simp] theorem State.setRoot_vsum (x : Option Packet) : (s.setRoot x).vsum = s.vsum := rfl
@[simp] theorem State.setRoot_value (x : Option Packet) : (s.setRoot x).value = s.value := rfl
@[simp] theorem State.setRoot_efault (x : Option Packet) : (s.setRoot x).efault = s.efault := rfl
@[simp] theorem State.setRoot_request (x : Option Packet) : (s.setRoot x).request = s.request := rfl

/-! ### setFault -/

@[simp] theorem State.setFault_input (x : Option FaultRecord) : (s.setFault x).input = s.input := rfl
@[simp] theorem State.setFault_ci (x : Option FaultRecord) : (s.setFault x).ci = s.ci := rfl
@[simp] theorem State.setFault_bitmem (x : Option FaultRecord) : (s.setFault x).bitmem = s.bitmem := rfl
@[simp] theorem State.setFault_len (x : Option FaultRecord) : (s.setFault x).len = s.len := rfl
@[simp] theorem State.setFault_pos (x : Option FaultRecord) : (s.setFault x).pos = s.pos := rfl
@[simp] theorem State.setFault_st (x : Option FaultRecord) : (s.setFault x).st = s.st := rfl
@[simp] theorem State.setFault_ver (x : Option FaultRecord) : (s.setFault x).ver = s.ver := rfl
@[simp] theorem State.setFault_tid (x : Option FaultRecord) : (s.setFault x).tid = s.tid := rfl
@[simp] theorem State.setFault_cflag (x : Option FaultRecord) : (s.setFault x).cflag = s.cflag := rfl
@[simp] theorem State.setFault_ltid (x : Option FaultRecord) : (s.setFault x).ltid = s.ltid := rfl
@[simp] theorem State.setFault_acc (x : Option FaultRecord) : (s.setFault x).acc = s.acc := rfl
@[simp] theorem State.setFault_stack (x : Option FaultRecord) : (s.setFault x).stack = s.stack := rfl
@[simp] theorem State.setFault_ret (x : Option FaultRecord) : (s.setFault x).ret = s.ret := rfl
@[simp] theorem State.setFault_root (x : Option FaultRecord) : (s.setFault x).root = s.root := rfl
@[simp] theorem State.setFault_fault (x : Option FaultRecord) : (s.setFault x).fault = x := rfl
@[simp] theorem State.setFault_vsum (x : Option FaultRecord) : (s.setFault x).vsum = s.vsum := rfl
@[simp] theorem State.setFault_value (x : Option FaultRecord) : (s.setFault x).value = s.value := rfl
@[simp] theorem State.setFault_efault (x : Option FaultRecord) : (s.setFault x).efault = s.efault := rfl
@[simp] theorem State.setFault_request (x : Option FaultRecord) : (s.setFault x).request = s.request := rfl

/-! ### setVsum -/

@[simp] theorem State.setVsum_input (x : Option Nat) : (s.setVsum x).input = s.input := rfl
@[simp] theorem State.setVsum_ci (x : Option Nat) : (s.setVsum x).ci = s.ci := rfl
@[simp] theorem State.setVsum_bitmem (x : Option Nat) : (s.setVsum x).bitmem = s.bitmem := rfl
@[simp] theorem State.setVsum_len (x : Option Nat) : (s.setVsum x).len = s.len := rfl
@[simp] theorem State.setVsum_pos (x : Option Nat) : (s.setVsum x).pos = s.pos := rfl
@[simp] theorem State.setVsum_st (x : Option Nat) : (s.setVsum x).st = s.st := rfl
@[simp] theorem State.setVsum_ver (x : Option Nat) : (s.setVsum x).ver = s.ver := rfl
@[simp] theorem State.setVsum_tid (x : Option Nat) : (s.setVsum x).tid = s.tid := rfl
@[simp] theorem State.setVsum_cflag (x : Option Nat) : (s.setVsum x).cflag = s.cflag := rfl
@[simp] theorem State.setVsum_ltid (x : Option Nat) : (s.setVsum x).ltid = s.ltid := rfl
@[simp] theorem State.setVsum_acc (x : Option Nat) : (s.setVsum x).acc = s.acc := rfl
@[simp] theorem State.setVsum_stack (x : Option Nat) : (s.setVsum x).stack = s.stack := rfl
@[simp] theorem State.setVsum_ret (x : Option Nat) : (s.setVsum x).ret = s.ret := rfl
@[simp] theorem State.setVsum_root (x : Option Nat) : (s.setVsum x).root = s.root := rfl
@[simp] theorem State.setVsum_fault (x : Option Nat) : (s.setVsum x).fault = s.fault := rfl
@[simp] theorem State.setVsum_vsum (x : Option Nat) : (s.setVsum x).vsum = x := rfl
@[simp] theorem State.setVsum_value (x : Option Nat) : (s.setVsum x).value = s.value := rfl
@[simp] theorem State.setVsum_efault (x : Option Nat) : (s.setVsum x).efault = s.efault := rfl
@[simp] theorem State.setVsum_request (x : Option Nat) : (s.setVsum x).request = s.request := rfl

/-! ### setValue -/

@[simp] theorem State.setValue_input (x : Option Nat) : (s.setValue x).input = s.input := rfl
@[simp] theorem State.setValue_ci (x : Option Nat) : (s.setValue x).ci = s.ci := rfl
@[simp] theorem State.setValue_bitmem (x : Option Nat) : (s.setValue x).bitmem = s.bitmem := rfl
@[simp] theorem State.setValue_len (x : Option Nat) : (s.setValue x).len = s.len := rfl
@[simp] theorem State.setValue_pos (x : Option Nat) : (s.setValue x).pos = s.pos := rfl
@[simp] theorem State.setValue_st (x : Option Nat) : (s.setValue x).st = s.st := rfl
@[simp] theorem State.setValue_ver (x : Option Nat) : (s.setValue x).ver = s.ver := rfl
@[simp] theorem State.setValue_tid (x : Option Nat) : (s.setValue x).tid = s.tid := rfl
@[simp] theorem State.setValue_cflag (x : Option Nat) : (s.setValue x).cflag = s.cflag := rfl
@[simp] theorem State.setValue_ltid (x : Option Nat) : (s.setValue x).ltid = s.ltid := rfl
@[simp] theorem State.setValue_acc (x : Option Nat) : (s.setValue x).acc = s.acc := rfl
@[simp] theorem State.setValue_stack (x : Option Nat) : (s.setValue x).stack = s.stack := rfl
@[simp] theorem State.setValue_ret (x : Option Nat) : (s.setValue x).ret = s.ret := rfl
@[simp] theorem State.setValue_root (x : Option Nat) : (s.setValue x).root = s.root := rfl
@[simp] theorem State.setValue_fault (x : Option Nat) : (s.setValue x).fault = s.fault := rfl
@[simp] theorem State.setValue_vsum (x : Option Nat) : (s.setValue x).vsum = s.vsum := rfl
@[simp] theorem State.setValue_value (x : Option Nat) : (s.setValue x).value = x := rfl
@[simp] theorem State.setValue_efault (x : Option Nat) : (s.setValue x).efault = s.efault := rfl
@[simp] theorem State.setValue_request (x : Option Nat) : (s.setValue x).request = s.request := rfl

/-! ### setEfault -/

@[simp] theorem State.setEfault_input (x : Option FaultRecord) : (s.setEfault x).input = s.input := rfl
@[simp] theorem State.setEfault_ci (x : Option FaultRecord) : (s.setEfault x).ci = s.ci := rfl
@[simp] theorem State.setEfault_bitmem (x : Option FaultRecord) : (s.setEfault x).bitmem = s.bitmem := rfl
@[simp] theorem State.setEfault_len (x : Option FaultRecord) : (s.setEfault x).len = s.len := rfl
@[simp] theorem State.setEfault_pos (x : Option FaultRecord) : (s.setEfault x).pos = s.pos := rfl
@[simp] theorem State.setEfault_st (x : Option FaultRecord) : (s.setEfault x).st = s.st := rfl
@[simp] theorem State.setEfault_ver (x : Option FaultRecord) : (s.setEfault x).ver = s.ver := rfl
@[simp] theorem State.setEfault_tid (x : Option FaultRecord) : (s.setEfault x).tid = s.tid := rfl
@[simp] theorem State.setEfault_cflag (x : Option FaultRecord) : (s.setEfault x).cflag = s.cflag := rfl
@[simp] theorem State.setEfault_ltid (x : Option FaultRecord) : (s.setEfault x).ltid = s.ltid := rfl
@[simp] theorem State.setEfault_acc (x : Option FaultRecord) : (s.setEfault x).acc = s.acc := rfl
@[simp] theorem State.setEfault_stack (x : Option FaultRecord) : (s.setEfault x).stack = s.stack := rfl
@[simp] theorem State.setEfault_ret (x : Option FaultRecord) : (s.setEfault x).ret = s.ret := rfl
@[simp] theorem State.setEfault_root (x : Option FaultRecord) : (s.setEfault x).root = s.root := rfl
@[simp] theorem State.setEfault_fault (x : Option FaultRecord) : (s.setEfault x).fault = s.fault := rfl
@[simp] theorem State.setEfault_vsum (x : Option FaultRecord) : (s.setEfault x).vsum = s.vsum := rfl
@[simp] theorem State.setEfault_value (x : Option FaultRecord) : (s.setEfault x).value = s.value := rfl
@[simp] theorem State.setEfault_efault (x : Option FaultRecord) : (s.setEfault x).efault = x := rfl
@[simp] theorem State.setEfault_request (x : Option FaultRecord) : (s.setEfault x).request = s.request := rfl

/-! ### raise -/

@[simp] theorem raise_input (f : FaultRecord) : (raise f s).input = s.input := rfl
@[simp] theorem raise_ci (f : FaultRecord) : (raise f s).ci = s.ci := rfl
@[simp] theorem raise_bitmem (f : FaultRecord) : (raise f s).bitmem = s.bitmem := rfl
@[simp] theorem raise_len (f : FaultRecord) : (raise f s).len = s.len := rfl
@[simp] theorem raise_pos (f : FaultRecord) : (raise f s).pos = s.pos := rfl
@[simp] theorem raise_st (f : FaultRecord) : (raise f s).st = .faulted := rfl
@[simp] theorem raise_ver (f : FaultRecord) : (raise f s).ver = s.ver := rfl
@[simp] theorem raise_tid (f : FaultRecord) : (raise f s).tid = s.tid := rfl
@[simp] theorem raise_cflag (f : FaultRecord) : (raise f s).cflag = s.cflag := rfl
@[simp] theorem raise_ltid (f : FaultRecord) : (raise f s).ltid = s.ltid := rfl
@[simp] theorem raise_acc (f : FaultRecord) : (raise f s).acc = s.acc := rfl
@[simp] theorem raise_stack (f : FaultRecord) : (raise f s).stack = s.stack := rfl
@[simp] theorem raise_ret (f : FaultRecord) : (raise f s).ret = s.ret := rfl
@[simp] theorem raise_root (f : FaultRecord) : (raise f s).root = s.root := rfl
@[simp] theorem raise_fault (f : FaultRecord) : (raise f s).fault = some f := rfl
@[simp] theorem raise_vsum (f : FaultRecord) : (raise f s).vsum = s.vsum := rfl
@[simp] theorem raise_value (f : FaultRecord) : (raise f s).value = s.value := rfl
@[simp] theorem raise_efault (f : FaultRecord) : (raise f s).efault = s.efault := rfl
@[simp] theorem raise_request (f : FaultRecord) : (raise f s).request = s.request := rfl

/-! ### push -/

@[simp] theorem push_input (f : Frame) : (push f s).input = s.input := rfl
@[simp] theorem push_ci (f : Frame) : (push f s).ci = s.ci := rfl
@[simp] theorem push_bitmem (f : Frame) : (push f s).bitmem = s.bitmem := rfl
@[simp] theorem push_len (f : Frame) : (push f s).len = s.len := rfl
@[simp] theorem push_pos (f : Frame) : (push f s).pos = s.pos := rfl
@[simp] theorem push_st (f : Frame) : (push f s).st = s.st := rfl
@[simp] theorem push_ver (f : Frame) : (push f s).ver = s.ver := rfl
@[simp] theorem push_tid (f : Frame) : (push f s).tid = s.tid := rfl
@[simp] theorem push_cflag (f : Frame) : (push f s).cflag = s.cflag := rfl
@[simp] theorem push_ltid (f : Frame) : (push f s).ltid = s.ltid := rfl
@[simp] theorem push_acc (f : Frame) : (push f s).acc = s.acc := rfl
@[simp] theorem push_stack (f : Frame) : (push f s).stack = f :: s.stack := rfl
@[simp] theorem push_ret (f : Frame) : (push f s).ret = s.ret := rfl
@[simp] theorem push_root (f : Frame) : (push f s).root = s.root := rfl
@[simp] theorem push_fault (f : Frame) : (push f s).fault = s.fault := rfl
@[simp] theorem push_vsum (f : Frame) : (push f s).vsum = s.vsum := rfl
@[simp] theorem push_value (f : Frame) : (push f s).value = s.value := rfl
@[simp] theorem push_efault (f : Frame) : (push f s).efault = s.efault := rfl
@[simp] theorem push_request (f : Frame) : (push f s).request = s.request := rfl

/-! ### A write of the value a register holds changes nothing -/

@[simp] theorem State.setCi_self : s.setCi s.ci = s := rfl
@[simp] theorem State.setBitmem_self : s.setBitmem s.bitmem = s := rfl
@[simp] theorem State.setLen_self : s.setLen s.len = s := rfl
@[simp] theorem State.setPos_self : s.setPos s.pos = s := rfl
@[simp] theorem State.setSt_self : s.setSt s.st = s := rfl
@[simp] theorem State.setVer_self : s.setVer s.ver = s := rfl
@[simp] theorem State.setTid_self : s.setTid s.tid = s := rfl
@[simp] theorem State.setCflag_self : s.setCflag s.cflag = s := rfl
@[simp] theorem State.setLtid_self : s.setLtid s.ltid = s := rfl
@[simp] theorem State.setAcc_self : s.setAcc s.acc = s := rfl
@[simp] theorem State.setStack_self : s.setStack s.stack = s := rfl
@[simp] theorem State.setRet_self : s.setRet s.ret = s := rfl
@[simp] theorem State.setRoot_self : s.setRoot s.root = s := rfl
@[simp] theorem State.setFault_self : s.setFault s.fault = s := rfl
@[simp] theorem State.setVsum_self : s.setVsum s.vsum = s := rfl
@[simp] theorem State.setValue_self : s.setValue s.value = s := rfl
@[simp] theorem State.setEfault_self : s.setEfault s.efault = s := rfl

end Sys2Proof.Machine
end

