-- ==== Sys2Proof/Laws/Ops.lean ====
section
/-! SUPPORT. One lemma per shared operation that says once everything it can do: the cursor's read, each state rule, the
meanings by format, the sequencer. Later proofs cite these instead of unfolding the operations. -/

namespace Sys2Proof.Machine

variable {s t : State}

/-- The value a field read delivers: the decoder's operand, or what BITMEM holds at POS. -/
def Delivers {w : Nat} (given : Option (BitVec w)) (s : State) (v : BitVec w) : Prop :=
  given = some v ∨ (given = none ∧ memRead w s.bitmem s.pos = some v)

@[simp] theorem delivers_some {w : Nat} (u v : BitVec w) : Delivers (some u) s v ↔ u = v := by simp [Delivers]

@[simp] theorem delivers_none {w : Nat} (v : BitVec w) :
    Delivers none s v ↔ memRead w s.bitmem s.pos = some v := by simp [Delivers]

/-- The end-of-bits fault of a read of w bits (R123). -/
def eofRaised (w : Nat) (s : State) : State := raise (.unexpectedEof w (remaining s) s.pos) s

theorem field_short {w : Nat} {g : Option (BitVec w)} {k : BitVec w → State → Out} (h : remaining s < w) :
    field w g s k = .next (eofRaised w s) := if_pos h

theorem field_enough {w : Nat} {v : BitVec w} {k : BitVec w → State → Out} (h : w ≤ remaining s) :
    field w (some v) s k = k v (s.setPos (s.pos + w)) := if_neg (by omega)

theorem field_read {w : Nat} {v : BitVec w} {k : BitVec w → State → Out} (h : w ≤ remaining s)
    (hv : memRead w s.bitmem s.pos = some v) : field w none s k = k v (s.setPos (s.pos + w)) := by
  simp [field, show ¬ remaining s < w by omega, hv]

/-- Everything a read can do when it goes on: UnexpectedEof, or the continuation at the advanced position. -/
theorem field_next {w : Nat} {g : Option (BitVec w)} {k : BitVec w → State → Out} (h : field w g s k = .next t) :
    (remaining s < w ∧ t = eofRaised w s) ∨
      (w ≤ remaining s ∧ ∃ v, Delivers g s v ∧ k v (s.setPos (s.pos + w)) = .next t) := by
  unfold field at h
  split at h
  · next hlt => cases h; exact .inl ⟨hlt, rfl⟩
  · next hge =>
    refine .inr ⟨by omega, ?_⟩
    cases g with
    | some v => exact ⟨v, by simp, h⟩
    | none =>
      simp only at h
      cases hm : memRead w s.bitmem s.pos with
      | none => simp [hm] at h
      | some v => exact ⟨v, by simp [hm], by simpa [hm] using h⟩

/-- The state after a whole header (R137). -/
def afterHeader (v : Version) (y : TypeId) (s : State) : State :=
  if y = 4 then (((((s.setPos (s.pos + 3)).setVer v).setPos (s.pos + 3 + 3)).setTid y).setAcc 0).setSt .readingLiteralGroup
  else ((((s.setPos (s.pos + 3)).setVer v).setPos (s.pos + 3 + 3)).setTid y).setSt .readingLengthTypeFlag

/-- Everything ReadingHeader can do (R137). -/
theorem readingHeader_next {v : Option Version} {y : Option TypeId} (h : readingHeader v y s = .next t) :
    (remaining s < 3 ∧ t = eofRaised 3 s) ∨
      (3 ≤ remaining s ∧ ∃ v', Delivers v s v' ∧
        ((remaining s < 6 ∧ t = eofRaised 3 ((s.setPos (s.pos + 3)).setVer v')) ∨
          (6 ≤ remaining s ∧ ∃ y', Delivers y ((s.setPos (s.pos + 3)).setVer v') y' ∧ t = afterHeader v' y' s))) := by
  rcases field_next h with ⟨h1, rfl⟩ | ⟨h1, v', hv, h⟩
  · exact .inl ⟨h1, rfl⟩
  · refine .inr ⟨h1, v', hv, ?_⟩
    rcases field_next h with ⟨h2, rfl⟩ | ⟨h2, y', hy, h⟩
    · exact .inl ⟨by simp [remaining] at h2 ⊢; omega, rfl⟩
    · refine .inr ⟨by simp [remaining] at h1 h2 ⊢; omega, y', hy, ?_⟩
      unfold afterHeader
      split at h <;> simp_all

/-- Everything ReadingLiteralGroup can do (R138). -/
theorem readingLiteralGroup_next {f : Option Flag} {g : Option Nibble} (h : readingLiteralGroup f g s = .next t) :
    (remaining s < 1 ∧ t = eofRaised 1 s) ∨
      (1 ≤ remaining s ∧ ∃ f', Delivers f s f' ∧
        ((remaining s < 5 ∧ t = eofRaised 4 ((s.setPos (s.pos + 1)).setCflag f')) ∨
          (5 ≤ remaining s ∧ ∃ g', Delivers g ((s.setPos (s.pos + 1)).setCflag f') g' ∧
            t = foldGroup f' g' (((s.setPos (s.pos + 1)).setCflag f').setPos (s.pos + 1 + 4))))) := by
  rcases field_next h with ⟨h1, rfl⟩ | ⟨h1, f', hf, h⟩
  · exact .inl ⟨h1, rfl⟩
  · refine .inr ⟨h1, f', hf, ?_⟩
    rcases field_next h with ⟨h2, rfl⟩ | ⟨h2, g', hg, h⟩
    · exact .inl ⟨by simp [remaining] at h2 ⊢; omega, rfl⟩
    · refine .inr ⟨by simp [remaining] at h1 h2 ⊢; omega, g', hg, ?_⟩
      simpa [eq_comm] using h

/-- Everything ReadingLengthTypeFlag can do (R139). -/
theorem readingLengthTypeFlag_next {i : Option Flag} (h : readingLengthTypeFlag i s = .next t) :
    (remaining s < 1 ∧ t = eofRaised 1 s) ∨
      (1 ≤ remaining s ∧ ∃ i', Delivers i s i' ∧
        t = ((s.setPos (s.pos + 1)).setLtid i').setSt (afterLengthType i')) := by
  rcases field_next h with ⟨h1, rfl⟩ | ⟨h1, i', hi, h⟩
  · exact .inl ⟨h1, rfl⟩
  · exact .inr ⟨h1, i', hi, by simpa [eq_comm] using h⟩

/-- The state after a frame has been opened (R140, R142). -/
def afterOpen (m : Mode) (w limit : Nat) (s : State) : State :=
  (push (newFrame m limit (s.setPos (s.pos + w))) (s.setPos (s.pos + w))).setSt (resumeState m)

/-- Everything ReadingTotalLengthPrefix can do (R140). -/
theorem readingTotalLengthPrefix_next {n : Option LengthField} (h : readingTotalLengthPrefix n s = .next t) :
    (remaining s < 15 ∧ t = eofRaised 15 s) ∨
      (15 ≤ remaining s ∧ ∃ n', Delivers n s n' ∧ t = afterOpen .byLength 15 n'.toNat s) := by
  rcases field_next h with ⟨h1, rfl⟩ | ⟨h1, n', hn, h⟩
  · exact .inl ⟨h1, rfl⟩
  · exact .inr ⟨h1, n', hn, by simpa [eq_comm, afterOpen, resumeState] using h⟩

/-- Everything ReadingSubpacketCount can do (R142). -/
theorem readingSubpacketCount_next {c : Option CountField} (h : readingSubpacketCount c s = .next t) :
    (remaining s < 11 ∧ t = eofRaised 11 s) ∨
      (11 ≤ remaining s ∧ ∃ c', Delivers c s c' ∧ t = afterOpen .byCount 11 c'.toNat s) := by
  rcases field_next h with ⟨h1, rfl⟩ | ⟨h1, c', hc, h⟩
  · exact .inl ⟨h1, rfl⟩
  · exact .inr ⟨h1, c', hc, by simpa [eq_comm, afterOpen, resumeState] using h⟩

/-- Everything ParsingSubpacketsByLength can do (R141). -/
theorem parsingSubpacketsByLength_next (h : parsingSubpacketsByLength s = .next t) :
    ∃ f rest, s.stack = f :: rest ∧ f.mark ≤ s.pos ∧
      ((s.pos - f.mark = f.limit ∧ t = completeFrame f rest s) ∨
        (f.limit < s.pos - f.mark ∧ t = raise (.overconsumedSubpackets f.limit (s.pos - f.mark) s.pos) s) ∨
        (s.pos - f.mark < f.limit ∧ t = s.setSt .readingHeader)) := by
  unfold parsingSubpacketsByLength at h
  split at h
  · cases h
  · next f rest hs =>
    unfold consumedSince at h
    split at h
    · next hm =>
      refine ⟨f, rest, hs, hm, ?_⟩
      dsimp only at h
      split at h
      · next he => cases h; exact .inl ⟨he, rfl⟩
      · split at h
        · next hlt => cases h; exact .inr (.inl ⟨hlt, rfl⟩)
        · cases h; exact .inr (.inr ⟨by omega, rfl⟩)
    · cases h

/-- Everything ParsingSubpacketsByCount can do (R143). -/
theorem parsingSubpacketsByCount_next (h : parsingSubpacketsByCount s = .next t) :
    ∃ f rest, s.stack = f :: rest ∧
      ((f.kids.length = f.limit ∧ t = completeFrame f rest s) ∨
        (f.kids.length ≠ f.limit ∧ t = s.setSt .readingHeader)) := by
  unfold parsingSubpacketsByCount at h
  split at h
  · cases h
  · next f rest hs =>
    refine ⟨f, rest, hs, ?_⟩
    split at h
    · next he => cases h; exact .inl ⟨he, rfl⟩
    · next he => cases h; exact .inr ⟨he, rfl⟩

/-- Everything Done can do (R144). -/
theorem done_next (h : done s = .next t) : ∃ p, s.ret = some p ∧ t = handOver p s := by
  unfold done at h
  split at h
  · cases h
  · next p hp => cases h; exact ⟨p, hp, rfl⟩

/-- Everything the back end can do (R38, R157). -/
theorem backEnd_next (h : backEnd s = .next t) : s.vsum = none ∧ ∃ p, s.root = some p ∧ t = setResults p s := by
  unfold backEnd at h
  split at h
  · cases h
  · next hv =>
    split at h
    · cases h
    · next p hp => cases h; exact ⟨by simpa using hv, p, hp, rfl⟩

/-- Everything a Loading step can do (R113). -/
theorem loadingStep_next (h : loadingStep s = .next t) :
    (s.input[s.ci]? = none ∧ t = endOfLine s) ∨
      ∃ c, s.input[s.ci]? = some c ∧
        ((hexVal c = none ∧ t = raise (.malformedHex c s.ci) s) ∨ ∃ v, hexVal c = some v ∧ t = takeDigit v s) := by
  unfold loadingStep at h
  split at h
  · next hc => cases h; exact .inl ⟨hc, rfl⟩
  · next c hc =>
    refine .inr ⟨c, hc, ?_⟩
    split at h
    · next hv => cases h; exact .inl ⟨hv, rfl⟩
    · next v hv => cases h; exact .inr ⟨v, hv, rfl⟩

/-- Everything a character instruction can do (R113). -/
theorem hexDigit_next {c : CharCode} {v : Nibble} (h : hexDigit c v s = .next t) :
    s.st = .loading ∧ s.input[s.ci]? = some c ∧ t = takeDigit v s := by
  unfold hexDigit at h
  split at h
  · next hc => cases h; exact ⟨hc.1, hc.2, rfl⟩
  · cases h

/-- Everything a literal's meaning can do, by the state it acts in (R170). -/
theorem litTransition_next {v : Version} {gs : List Nibble} (h : litTransition v gs s = .next t) :
    isCurrent v 4 s = true ∧
      ((s.st = .readingHeader ∧ readingHeader (some v) (some 4) s = .next t) ∨
        (s.st = .readingLiteralGroup ∧ ∃ g rest, gs = g :: rest ∧
          readingLiteralGroup (some (continueFlag rest)) (some g) s = .next t) ∨
        (s.st = .done ∧ done s = .next t) ∨ (s.st = .parseOk ∧ backEnd s = .next t)) := by
  unfold litTransition at h
  split at h
  · next hc =>
    refine ⟨hc, ?_⟩
    split at h <;> first | cases h | simp_all
    split at h
    · cases h
    · exact ⟨_, _, rfl, h⟩
  · cases h

/-- Everything an OP.L operator's meaning can do, by the state it acts in (R171 to R177). -/
theorem opLTransition_next {y : TypeId} {v : Version} {n : LengthField} (h : opLTransition y v n s = .next t) :
    isCurrent v y s = true ∧
      ((s.st = .readingHeader ∧ readingHeader (some v) (some y) s = .next t) ∨
        (s.st = .readingLengthTypeFlag ∧ readingLengthTypeFlag (some 0) s = .next t) ∨
        (s.st = .readingTotalLengthPrefix ∧ readingTotalLengthPrefix (some n) s = .next t) ∨
        (s.st = .parsingSubpacketsByLength ∧ parsingSubpacketsByLength s = .next t) ∨
        (s.st = .done ∧ done s = .next t) ∨ (s.st = .parseOk ∧ backEnd s = .next t)) := by
  unfold opLTransition at h
  split at h
  · next hc =>
    refine ⟨hc, ?_⟩
    split at h <;> first | cases h | simp_all [lengthTypeOf]
  · cases h

/-- Everything an OP.C operator's meaning can do, by the state it acts in (R171 to R177). -/
theorem opCTransition_next {y : TypeId} {v : Version} {c : CountField} (h : opCTransition y v c s = .next t) :
    isCurrent v y s = true ∧
      ((s.st = .readingHeader ∧ readingHeader (some v) (some y) s = .next t) ∨
        (s.st = .readingLengthTypeFlag ∧ readingLengthTypeFlag (some 1) s = .next t) ∨
        (s.st = .readingSubpacketCount ∧ readingSubpacketCount (some c) s = .next t) ∨
        (s.st = .parsingSubpacketsByCount ∧ parsingSubpacketsByCount s = .next t) ∨
        (s.st = .done ∧ done s = .next t) ∨ (s.st = .parseOk ∧ backEnd s = .next t)) := by
  unfold opCTransition at h
  split at h
  · next hc =>
    refine ⟨hc, ?_⟩
    split at h <;> first | cases h | simp_all [lengthTypeOf]
  · cases h

/-- Every packet instruction's meaning is the transition of its format. -/
theorem exec_opL (i : Instr) (hf : i.format = .opL) :
    ∃ y v n, i.typeId = some y ∧ i.version = some v ∧ i.limit = some n.toNat ∧ y ≠ 4 ∧
      opLInstr y v n = some i ∧ exec i = opLTransition y v n := by
  cases i <;> first | (cases hf; done) | exact ⟨_, _, _, rfl, rfl, rfl, by decide, rfl, rfl⟩

theorem exec_opC (i : Instr) (hf : i.format = .opC) :
    ∃ y v c, i.typeId = some y ∧ i.version = some v ∧ i.limit = some c.toNat ∧ y ≠ 4 ∧
      opCInstr y v c = some i ∧ exec i = opCTransition y v c := by
  cases i <;> first | (cases hf; done) | exact ⟨_, _, _, rfl, rfl, rfl, by decide, rfl, rfl⟩

/-- Every character instruction's meaning is the Loading step of its character. -/
theorem exec_hexChar (i : Instr) (hf : i.format = .hexChar) :
    ∃ c v, encode i = .char c ∧ hexVal c = some v ∧ decodeChar c = .ok i ∧ exec i = hexDigit c v := by
  cases i <;> first | (cases hf; done) | exact ⟨_, _, rfl, by decide, by decide, rfl⟩

end Sys2Proof.Machine
end

