-- ==== Sys2Proof/Laws/PerInstr.lean ====
section
/-! SUPPORT. The family `EncodedLength`: an instruction's code is in the space of its format and is exactly as long as R90
says. One lemma per constructor of Instr. -/

namespace Sys2Proof.Laws

/-- A code has the length R90 gives the instruction: one character, or that many bits. -/
def EncodedLength.Statement (i : Instr) : Prop :=
  match encode i with
  | .char _ => i.format = .hexChar ∧ i.length = 8
  | .bits bs => i.format ≠ .hexChar ∧ (i.wellFormed = true → bs.length = i.length)

theorem length_groupBits (gs : List Nibble) : (groupBits gs).length = 5 * gs.length := by
  induction gs with
  | nil => rfl
  | cons g gs ih =>
    cases gs with
    | nil => simp [groupBits]
    | cons g' gs => simp only [groupBits, List.length_append, List.length_cons, ih, length_fieldBits]; omega

theorem EncodedLength.hex0 : EncodedLength.Statement .hex0 := ⟨rfl, rfl⟩
theorem EncodedLength.hex1 : EncodedLength.Statement .hex1 := ⟨rfl, rfl⟩
theorem EncodedLength.hex2 : EncodedLength.Statement .hex2 := ⟨rfl, rfl⟩
theorem EncodedLength.hex3 : EncodedLength.Statement .hex3 := ⟨rfl, rfl⟩
theorem EncodedLength.hex4 : EncodedLength.Statement .hex4 := ⟨rfl, rfl⟩
theorem EncodedLength.hex5 : EncodedLength.Statement .hex5 := ⟨rfl, rfl⟩
theorem EncodedLength.hex6 : EncodedLength.Statement .hex6 := ⟨rfl, rfl⟩
theorem EncodedLength.hex7 : EncodedLength.Statement .hex7 := ⟨rfl, rfl⟩
theorem EncodedLength.hex8 : EncodedLength.Statement .hex8 := ⟨rfl, rfl⟩
theorem EncodedLength.hex9 : EncodedLength.Statement .hex9 := ⟨rfl, rfl⟩
theorem EncodedLength.hexUpperA : EncodedLength.Statement .hexUpperA := ⟨rfl, rfl⟩
theorem EncodedLength.hexUpperB : EncodedLength.Statement .hexUpperB := ⟨rfl, rfl⟩
theorem EncodedLength.hexUpperC : EncodedLength.Statement .hexUpperC := ⟨rfl, rfl⟩
theorem EncodedLength.hexUpperD : EncodedLength.Statement .hexUpperD := ⟨rfl, rfl⟩
theorem EncodedLength.hexUpperE : EncodedLength.Statement .hexUpperE := ⟨rfl, rfl⟩
theorem EncodedLength.hexUpperF : EncodedLength.Statement .hexUpperF := ⟨rfl, rfl⟩
theorem EncodedLength.hexLowerA : EncodedLength.Statement .hexLowerA := ⟨rfl, rfl⟩
theorem EncodedLength.hexLowerB : EncodedLength.Statement .hexLowerB := ⟨rfl, rfl⟩
theorem EncodedLength.hexLowerC : EncodedLength.Statement .hexLowerC := ⟨rfl, rfl⟩
theorem EncodedLength.hexLowerD : EncodedLength.Statement .hexLowerD := ⟨rfl, rfl⟩
theorem EncodedLength.hexLowerE : EncodedLength.Statement .hexLowerE := ⟨rfl, rfl⟩
theorem EncodedLength.hexLowerF : EncodedLength.Statement .hexLowerF := ⟨rfl, rfl⟩
theorem EncodedLength.lit (v : Version) (gs : List Nibble) : EncodedLength.Statement (.lit v gs) :=
  ⟨Format.noConfusion, fun _ => by simp [litBits, headerBits, length_groupBits, Instr.length]; omega⟩
theorem EncodedLength.sumL (v : Version) (n : LengthField) : EncodedLength.Statement (.sumL v n) :=
  ⟨Format.noConfusion, fun _ => by simp [opLBits, headerBits, Instr.length]⟩
theorem EncodedLength.sumC (v : Version) (c : CountField) : EncodedLength.Statement (.sumC v c) :=
  ⟨Format.noConfusion, fun _ => by simp [opCBits, headerBits, Instr.length]⟩
theorem EncodedLength.productL (v : Version) (n : LengthField) : EncodedLength.Statement (.productL v n) :=
  ⟨Format.noConfusion, fun _ => by simp [opLBits, headerBits, Instr.length]⟩
theorem EncodedLength.productC (v : Version) (c : CountField) : EncodedLength.Statement (.productC v c) :=
  ⟨Format.noConfusion, fun _ => by simp [opCBits, headerBits, Instr.length]⟩
theorem EncodedLength.minimumL (v : Version) (n : LengthField) : EncodedLength.Statement (.minimumL v n) :=
  ⟨Format.noConfusion, fun _ => by simp [opLBits, headerBits, Instr.length]⟩
theorem EncodedLength.minimumC (v : Version) (c : CountField) : EncodedLength.Statement (.minimumC v c) :=
  ⟨Format.noConfusion, fun _ => by simp [opCBits, headerBits, Instr.length]⟩
theorem EncodedLength.maximumL (v : Version) (n : LengthField) : EncodedLength.Statement (.maximumL v n) :=
  ⟨Format.noConfusion, fun _ => by simp [opLBits, headerBits, Instr.length]⟩
theorem EncodedLength.maximumC (v : Version) (c : CountField) : EncodedLength.Statement (.maximumC v c) :=
  ⟨Format.noConfusion, fun _ => by simp [opCBits, headerBits, Instr.length]⟩
theorem EncodedLength.gtL (v : Version) (n : LengthField) : EncodedLength.Statement (.gtL v n) :=
  ⟨Format.noConfusion, fun _ => by simp [opLBits, headerBits, Instr.length]⟩
theorem EncodedLength.gtC (v : Version) (c : CountField) : EncodedLength.Statement (.gtC v c) :=
  ⟨Format.noConfusion, fun _ => by simp [opCBits, headerBits, Instr.length]⟩
theorem EncodedLength.ltL (v : Version) (n : LengthField) : EncodedLength.Statement (.ltL v n) :=
  ⟨Format.noConfusion, fun _ => by simp [opLBits, headerBits, Instr.length]⟩
theorem EncodedLength.ltC (v : Version) (c : CountField) : EncodedLength.Statement (.ltC v c) :=
  ⟨Format.noConfusion, fun _ => by simp [opCBits, headerBits, Instr.length]⟩
theorem EncodedLength.eqL (v : Version) (n : LengthField) : EncodedLength.Statement (.eqL v n) :=
  ⟨Format.noConfusion, fun _ => by simp [opLBits, headerBits, Instr.length]⟩
theorem EncodedLength.eqC (v : Version) (c : CountField) : EncodedLength.Statement (.eqC v c) :=
  ⟨Format.noConfusion, fun _ => by simp [opCBits, headerBits, Instr.length]⟩

end Sys2Proof.Laws
end

