-- ==== Sys2Proof/Tests/Slice0.lean ====
section
/-! SUPPORT. The model's own tests, each a named theorem: the well-formedness check, the codes of all 37 instructions written
out from the spec's tables, single steps from the spec's examples, and for every statement with hypotheses a state and
operands that meet them. -/

namespace Sys2Proof.Tests

open Sys2Proof Sys2Proof.Machine

/-! ## Helpers -/

/-- Bits written as digits. -/
def b (ds : List Nat) : List Bit := ds.map (fun d => d == 1)

/-- A state with the given bits from address 0 on, all else as after reset. -/
def onBits (x : ParserState) (bs : List Bit) : State :=
  { State.reset with st := x, bitmem := memoryOf bs, len := bs.length }

/-- Whether a step goes on, and to a state that passes the test. -/
def goesTo (o : Out) (test : State → Bool) : Bool :=
  match o with
  | .next t => test t
  | _ => false

/-- Whether a step is refused for the given reason. -/
def refusedAs (o : Out) (r : Refusal) : Bool :=
  match o with
  | .refused r' => r' = r
  | _ => false

/-! ## Well-formedness (the one check) -/

theorem test_wellFormed_refuses_literal_without_groups : (Instr.lit 3 []).wellFormed = false := by decide
theorem test_wellFormed_accepts_one_group : (Instr.lit 3 [0]).wellFormed = true := by decide

/-! ## Decoding (R81, R84, R87, R88) -/

theorem test_decode_hex0 : decode (.char 0x30) = .ok (.hex0, []) := by decide
theorem test_decode_hex1 : decode (.char 0x31) = .ok (.hex1, []) := by decide
theorem test_decode_hex2 : decode (.char 0x32) = .ok (.hex2, []) := by decide
theorem test_decode_hex3 : decode (.char 0x33) = .ok (.hex3, []) := by decide
theorem test_decode_hex4 : decode (.char 0x34) = .ok (.hex4, []) := by decide
theorem test_decode_hex5 : decode (.char 0x35) = .ok (.hex5, []) := by decide
theorem test_decode_hex6 : decode (.char 0x36) = .ok (.hex6, []) := by decide
theorem test_decode_hex7 : decode (.char 0x37) = .ok (.hex7, []) := by decide
theorem test_decode_hex8 : decode (.char 0x38) = .ok (.hex8, []) := by decide
theorem test_decode_hex9 : decode (.char 0x39) = .ok (.hex9, []) := by decide
theorem test_decode_hexUpperA : decode (.char 0x41) = .ok (.hexUpperA, []) := by decide
theorem test_decode_hexUpperB : decode (.char 0x42) = .ok (.hexUpperB, []) := by decide
theorem test_decode_hexUpperC : decode (.char 0x43) = .ok (.hexUpperC, []) := by decide
theorem test_decode_hexUpperD : decode (.char 0x44) = .ok (.hexUpperD, []) := by decide
theorem test_decode_hexUpperE : decode (.char 0x45) = .ok (.hexUpperE, []) := by decide
theorem test_decode_hexUpperF : decode (.char 0x46) = .ok (.hexUpperF, []) := by decide
theorem test_decode_hexLowerA : decode (.char 0x61) = .ok (.hexLowerA, []) := by decide
theorem test_decode_hexLowerB : decode (.char 0x62) = .ok (.hexLowerB, []) := by decide
theorem test_decode_hexLowerC : decode (.char 0x63) = .ok (.hexLowerC, []) := by decide
theorem test_decode_hexLowerD : decode (.char 0x64) = .ok (.hexLowerD, []) := by decide
theorem test_decode_hexLowerE : decode (.char 0x65) = .ok (.hexLowerE, []) := by decide
theorem test_decode_hexLowerF : decode (.char 0x66) = .ok (.hexLowerF, []) := by decide

/-- R84: the packet of `D2FE28`. -/
theorem test_decode_lit : decodeBits (b [1, 1, 0, 1, 0, 0, 1, 0, 1, 1, 1, 1, 1, 1, 1, 0, 0, 0, 1, 0, 1]) = .ok (.lit 6 [7, 14, 5], []) := by decide
/-- R87: the prefix of `200029448`. -/
theorem test_decode_sumL : decodeBits (b [0, 0, 1, 0, 0, 0, 0, 0, 0, 0, 0, 0, 0, 0, 0, 0, 0, 0, 1, 0, 1, 0]) = .ok (.sumL 1 10, []) := by decide
/-- R88: the prefix of `C200B40A82`. -/
theorem test_decode_sumC : decodeBits (b [1, 1, 0, 0, 0, 0, 1, 0, 0, 0, 0, 0, 0, 0, 0, 0, 1, 0]) = .ok (.sumC 6 2, []) := by decide
/-- R87: the prefix of `04005AC33890`. -/
theorem test_decode_productL : decodeBits (b [0, 0, 0, 0, 0, 1, 0, 0, 0, 0, 0, 0, 0, 0, 0, 0, 0, 1, 0, 1, 1, 0]) = .ok (.productL 0 22, []) := by decide
/-- R88: the greatest count. -/
theorem test_decode_productC : decodeBits (b [1, 1, 1, 0, 0, 1, 1, 1, 1, 1, 1, 1, 1, 1, 1, 1, 1, 1]) = .ok (.productC 7 2047, []) := by decide
/-- R87: the prefix of `880086C3E88112`. -/
theorem test_decode_minimumL : decodeBits (b [1, 0, 0, 0, 1, 0, 0, 0, 0, 0, 0, 0, 0, 0, 0, 0, 1, 0, 0, 0, 0, 1]) = .ok (.minimumL 4 33, []) := by decide
/-- R88: the count's last bit alone. -/
theorem test_decode_minimumC : decodeBits (b [1, 0, 1, 0, 1, 0, 1, 0, 0, 0, 0, 0, 0, 0, 0, 0, 0, 1]) = .ok (.minimumC 5 1, []) := by decide
/-- R87: a length of 0. -/
theorem test_decode_maximumL : decodeBits (b [0, 1, 0, 0, 1, 1, 0, 0, 0, 0, 0, 0, 0, 0, 0, 0, 0, 0, 0, 0, 0, 0]) = .ok (.maximumL 2 0, []) := by decide
/-- R88: the prefix of `EE00D40C823060`. -/
theorem test_decode_maximumC : decodeBits (b [1, 1, 1, 0, 1, 1, 1, 0, 0, 0, 0, 0, 0, 0, 0, 0, 1, 1]) = .ok (.maximumC 7 3, []) := by decide
/-- R87: the greatest length. -/
theorem test_decode_gtL : decodeBits (b [0, 1, 1, 1, 0, 1, 0, 1, 1, 1, 1, 1, 1, 1, 1, 1, 1, 1, 1, 1, 1, 1]) = .ok (.gtL 3 32767, []) := by decide
/-- R88: the prefix of `36005438`. -/
theorem test_decode_gtC : decodeBits (b [0, 0, 1, 1, 0, 1, 1, 0, 0, 0, 0, 0, 0, 0, 0, 0, 0, 1]) = .ok (.gtC 1 1, []) := by decide
/-- R87: the prefix of `38006F45291200`. -/
theorem test_decode_ltL : decodeBits (b [0, 0, 1, 1, 1, 0, 0, 0, 0, 0, 0, 0, 0, 0, 0, 0, 0, 1, 1, 0, 1, 1]) = .ok (.ltL 1 27, []) := by decide
/-- R88: the count's top bit alone. -/
theorem test_decode_ltC : decodeBits (b [0, 0, 0, 1, 1, 0, 1, 1, 0, 0, 0, 0, 0, 0, 0, 0, 0, 0]) = .ok (.ltC 0 1024, []) := by decide
/-- R87: the length's top bit alone. -/
theorem test_decode_eqL : decodeBits (b [1, 0, 0, 1, 1, 1, 0, 1, 0, 0, 0, 0, 0, 0, 0, 0, 0, 0, 0, 0, 0, 0]) = .ok (.eqL 4 16384, []) := by decide
/-- R88: a count of 3. -/
theorem test_decode_eqC : decodeBits (b [0, 0, 1, 1, 1, 1, 1, 0, 0, 0, 0, 0, 0, 0, 0, 0, 1, 1]) = .ok (.eqC 1 3, []) := by decide

/-! ## Codes that are no instruction (R81, R84, R87) -/

theorem test_decode_refuses_codes_beside_the_digits :
    (∀ c ∈ [(0x2F : CharCode), 0x3A, 0x40, 0x47, 0x60, 0x67, 0x0A, 0xC4], decodeChar c = .error (.notHexDigit c)) := by
  decide
theorem test_decode_refuses_short_header : decodeBits (b [1, 1, 0, 1]) = .error (.endOfBits 3 1) := by decide
theorem test_decode_refuses_missing_payload :
    decodeBits (b [1, 1, 0, 1, 0, 0, 1, 0]) = .error (.endOfBits 4 1) := by decide
theorem test_decode_refuses_unended_literal :
    decodeBits (b [1, 1, 0, 1, 0, 0, 1, 0, 1, 1, 1]) = .error (.endOfBits 1 0) := by decide
theorem test_decode_refuses_short_length :
    decodeBits (b [0, 0, 1, 0, 0, 0, 0, 0, 0]) = .error (.endOfBits 15 2) := by decide
theorem test_decode_refuses_literal_type_as_operator : decodeOpL 0 4 (List.replicate 15 true) = .error .literalType := by
  decide

/-! ## Encoding and the words of spec/opcode_table.json -/

theorem test_encode_lit : encode (.lit 0 [1, 2]) = .bits (b [0, 0, 0, 1, 0, 0, 1, 0, 0, 0, 1, 0, 0, 0, 1, 0]) := by decide
theorem test_encode_eqL :
    encode (.eqL 1 33) = .bits (b [0, 0, 1, 1, 1, 1, 0, 0, 0, 0, 0, 0, 0, 0, 0, 0, 1, 0, 0, 0, 0, 1]) := by decide
theorem test_decodeTableWord_character : decodeTableWord 8 0x62 = some .hexLowerB := by decide
theorem test_decodeTableWord_literal : decodeTableWord 8 4 = some (.lit 0 [0]) := by decide
theorem test_decodeTableWord_operator : decodeTableWord 8 15 = some (.eqC 0 0) := by decide
theorem test_withFetchWord_character :
    goesTo (step (State.reset.withFetchWord 8 0x44)) (fun t => memRead 4 t.bitmem 0 = some 13 ∧ t.ci = 1) = true := by
  decide
theorem test_withFetchWord_operator :
    goesTo (step (State.reset.withFetchWord 8 13)) (fun t => t.tid = 6 ∧ t.pos = 6 ∧ t.st = .readingLengthTypeFlag) = true := by
  decide

/-! ## Single steps (the examples of spec/40, 41, 42, 43, 60) -/

/-- `read_bits(3)` on bits `[1,0,1]` returns 5 (R122). -/
theorem test_readBits_example :
    goesTo (readBits 3 (onBits .readingHeader (b [1, 0, 1])) fun v s => .next (s.setAcc v.toNat))
      (fun t => t.acc = 5 ∧ t.pos = 3) = true := by decide
/-- The three groups of `D2FE28`: ACC 7, 126, 2021 (R138). -/
theorem test_group_folds :
    goesTo (step { onBits .readingLiteralGroup (b [0, 0, 1, 0, 1]) with ver := 6, tid := 4, acc := 126 })
      (fun t => t.acc = 2021 ∧ t.ret = some (.literal 6 4 2021) ∧ t.st = .done) = true := by decide
/-- `D0` (R202): the flag is read, the payload is not there. -/
theorem test_truncated_group :
    goesTo (step { onBits .readingLiteralGroup (b [1, 1, 0, 1, 0, 0, 0, 0]) with pos := 6, tid := 4 })
      (fun t => t.fault = some (.unexpectedEof 4 1 7) ∧ t.st = .faulted ∧ t.pos = 7) = true := by decide
/-- The frame of `38006F45291200` (R140). -/
theorem test_length_frame :
    goesTo (step { onBits .readingTotalLengthPrefix (b [0, 0, 0, 0, 0, 0, 0, 0, 0, 0, 1, 1, 0, 1, 1]) with ver := 1, tid := 6 })
      (fun t => t.stack = [⟨1, 6, .byLength, 15, 27, .nil⟩] ∧ t.pos = 15) = true := by decide
/-- `200029448` (R203): 11 bits where 10 are declared. -/
theorem test_overconsumed :
    goesTo (step { onBits .parsingSubpacketsByLength (List.replicate 36 false) with
        pos := 33, stack := [⟨1, 0, .byLength, 22, 10, .cons (.literal 2 4 9) .nil⟩] })
      (fun t => t.fault = some (.overconsumedSubpackets 10 11 33) ∧ t.st = .faulted) = true := by decide
/-- The order of evaluation (R179, D21). -/
theorem test_wrong_arity_before_subpackets :
    valueOf (.operator 0 5 (.cons (.operator 0 2 .nil) (.cons (.literal 0 4 1) (.cons (.literal 0 4 2) .nil)))) =
      .error (.wrongArity 5 3) := by decide
theorem test_first_faulting_subpacket :
    valueOf (.operator 0 0 (.cons (.operator 0 2 .nil) (.cons (.operator 0 5 (.cons (.literal 0 4 1) .nil)) .nil))) =
      .error (.emptySubpackets 2) := by decide
/-- `F600BC2D8F` is GT of 5 and 15: value 0; LT of the same is 1 (R175, R176). -/
theorem test_gt_and_lt :
    valueOf (.operator 7 5 (.cons (.literal 7 4 5) (.cons (.literal 5 4 15) .nil))) = .ok 0 ∧
    valueOf (.operator 7 6 (.cons (.literal 7 4 5) (.cons (.literal 5 4 15) .nil))) = .ok 1 := by decide
/-- `CE00C43D881120`, `880086C3E88112`, `04005AC33890`: greatest, least, product (R174, R173, R172). -/
theorem test_max_min_product :
    valueOf (.operator 6 3 (.cons (.literal 0 4 7) (.cons (.literal 5 4 8) (.cons (.literal 0 4 9) .nil)))) = .ok 9 ∧
    valueOf (.operator 4 2 (.cons (.literal 5 4 7) (.cons (.literal 6 4 8) (.cons (.literal 0 4 9) .nil)))) = .ok 7 ∧
    valueOf (.operator 0 1 (.cons (.literal 5 4 6) (.cons (.literal 3 4 9) .nil))) = .ok 54 := by decide
/-- A character where it is not the one being taken, and a literal without a group, are refused by name. -/
theorem test_refusals :
    refusedAs (exec .hex0 State.reset) .outOfSequence = true ∧
    refusedAs (exec (.lit 0 []) { onBits .readingLiteralGroup [] with tid := 4 }) .illFormed = true := by decide

/-! ## Witnesses

Each names a statement of Certificates/Slice0/Obligations.lean and shows a state and operands that meet its hypotheses, at
the boundary of each clause. Statements without hypotheses have none. -/

/-- A header of version 6 and the given type, and what follows. -/
def packet6 (t : List Nat) (rest : List Nat) : List Bit := b ([1, 1, 0] ++ t ++ rest)

/-- Nothing to read, one frame open. -/
def inFrame (x : ParserState) (pos : Nat) (f : Frame) : State :=
  { onBits x (List.replicate 40 false) with pos := pos, stack := [f] }

theorem witness_DecodeOfEncodeIsTheInstruction :
    (Instr.lit 7 [15, 0]).wellFormed = true ∧ Instr.hexLowerF.wellFormed = true ∧ (Instr.eqC 7 2047).wellFormed = true ∧
    encode (.lit 7 [0]) = .bits (b [1, 1, 1, 1, 0, 0, 0, 0, 0, 0, 0]) := by decide

theorem witness_DecodedCodeIsTheEncoding :
    decodeChar 0x66 = .ok .hexLowerF ∧
    decodeBits (b [1, 1, 1, 1, 0, 0, 0, 0, 0, 0, 0, 1]) = .ok (.lit 7 [0], [true]) := by decide

theorem witness_ValidCharactersAreTheHexDigits :
    0x41 ≤ (0x41 : CharCode).toNat ∧ (0x46 : CharCode).toNat ≤ 0x46 ∧ decodeChar 0x30 = .ok .hex0 ∧
    hexVal 0x39 = some 9 ∧ hexVal 0x2F = none := by decide

theorem witness_DecodedLengthLaw :
    decodeLine [] = .ok [] ∧ decodeLine [0x61, 0x35] = .ok (b [1, 0, 1, 0, 0, 1, 0, 1]) ∧
    0 < (b [1, 0, 1, 0, 0, 1, 0, 1]).length ∧ 7 < (b [1, 0, 1, 0, 0, 1, 0, 1]).length := by decide

/-- `DECODE("12G4")` (R112). -/
theorem witness_LeftmostInvalidCharacterIsReported :
    decodeLine [0x31, 0x32, 0x47, 0x34] = .error (.malformedHex 0x47 2) ∧ decodeLine [0x00] = .error (.malformedHex 0 0) := by
  decide

theorem witness_CharacterStoresItsDigit :
    Instr.hexUpperF.format = .hexChar ∧ (started [0x30, 0x46]).st = .loading ∧
    ({ started [0x30, 0x46] with ci := 1 } : State).input[1]? = some 0x46 ∧ encode .hexUpperF = .char 0x46 := by decide

theorem witness_CharacterFrame :
    Instr.hexUpperF.format = .hexChar ∧
    goesTo (exec .hexUpperF { started [0x30, 0x46] with ci := 1, bitmem := memoryOf (b [0, 0, 0, 0]) })
      (fun t => Memory.read t.bitmem 3 = some false ∧ Memory.read t.bitmem 4 = some true ∧
        Memory.read t.bitmem 7 = some true ∧ Memory.read t.bitmem 8 = none) = true := by decide

theorem witness_LoadingEndsOrFaults :
    (started [0x47]).request = none ∧ (started [0x47]).st = .loading ∧
    (started [0x47]).input[(started [0x47]).ci]? = some 0x47 ∧ hexVal 0x47 = none ∧
    (started []).input.length ≤ (started []).ci := by decide

theorem witness_LoadingDecodesTheLine :
    decodeLine [] = .ok [] ∧ decodeLine [0x46] = .ok (b [1, 1, 1, 1]) ∧ decodeLine [0x67] = .error (.malformedHex 0x67 0) := by
  decide

theorem witness_ReadBitsIsAllOrNothing :
    (onBits .done (b [1, 0])).len - (onBits .done (b [1, 0])).pos < 3 ∧
    2 ≤ (onBits .done (b [1, 0])).len - (onBits .done (b [1, 0])).pos ∧
    memRead 2 (onBits .done (b [1, 0])).bitmem (onBits .done (b [1, 0])).pos = some 2 := by decide

theorem witness_AdjacentReadsCompose :
    memRead 1 (memoryOf (b [1, 0, 1, 1, 1])) 0 = some 1 ∧ memRead 4 (memoryOf (b [1, 0, 1, 1, 1])) (0 + 1) = some 7 ∧
    memRead (1 + 4) (memoryOf (b [1, 0, 1, 1, 1])) 0 = some 23 := by decide

theorem witness_ConsumedSinceAMark :
    22 ≤ ({ State.reset with pos := 22 } : State).pos ∧ ({ State.reset with pos := 22 } : State).pos < 23 := by decide

theorem witness_PacketHeaderIsRead :
    (Instr.lit 6 [0]).version = some 6 ∧ (Instr.lit 6 [0]).typeId = some 4 ∧ (Instr.gtC 6 0).version = some 6 ∧
    (Instr.gtC 6 0).typeId = some 5 ∧ (onBits .readingHeader (packet6 [1, 0, 0] [])).st = .readingHeader ∧
    6 ≤ (onBits .readingHeader (packet6 [1, 0, 0] [])).len - (onBits .readingHeader (packet6 [1, 0, 0] [])).pos := by decide

theorem witness_LiteralGroupIsFolded :
    goesTo (exec (.lit 6 [9]) { onBits .readingLiteralGroup (b [0, 1, 0, 0, 1]) with ver := 6, tid := 4 })
      (fun t => t.ret = some (.literal 6 4 9) ∧ t.cflag = 0) = true ∧
    goesTo (exec (.lit 6 [9, 0]) { onBits .readingLiteralGroup (b [1, 1, 0, 0, 1]) with ver := 6, tid := 4 })
      (fun t => t.ret = none ∧ t.cflag = 1 ∧ t.acc = 9) = true := by decide

theorem witness_LiteralRunBuildsItsValue :
    ([0, 7] : List Nibble) ≠ [] ∧
    Memory.readBits (onBits .readingHeader (litBits 6 [0, 7])).bitmem 0 (6 + 5 * 2) = some (litBits 6 [0, 7]) ∧
    0 + (6 + 5 * 2) ≤ (onBits .readingHeader (litBits 6 [0, 7])).len ∧
    goesTo (run 3 (onBits .readingHeader (litBits 6 [0, 7]))) (fun t => t.ret = some (.literal 6 4 7)) = true := by decide

theorem witness_LengthTypeFlagSelectsTheForm :
    goesTo (exec (.sumL 6 1) { onBits .readingLengthTypeFlag (b [0]) with ver := 6, tid := 0 })
      (fun t => t.st = .readingTotalLengthPrefix) = true ∧
    goesTo (exec (.eqC 6 1) { onBits .readingLengthTypeFlag (b [1]) with ver := 6, tid := 7 })
      (fun t => t.st = .readingSubpacketCount ∧ t.ltid = 1) = true := by decide

theorem witness_TotalLengthOpensAFrame :
    (Instr.ltL 6 32767).format = .opL ∧ (Instr.ltL 6 32767).limit = some 32767 ∧
    goesTo (exec (.ltL 6 32767) { onBits .readingTotalLengthPrefix (List.replicate 15 true) with ver := 6, tid := 6 })
      (fun t => t.stack.length = 1 ∧ t.pos = 15) = true := by decide

theorem witness_SubpacketCountOpensAFrame :
    (Instr.productC 6 2047).format = .opC ∧ (Instr.productC 6 2047).limit = some 2047 ∧
    goesTo (exec (.productC 6 2047) { onBits .readingSubpacketCount (List.replicate 11 true) with ver := 6, tid := 1 })
      (fun t => t.stack.length = 1 ∧ t.pos = 11) = true := by decide

theorem witness_DeclaredLengthIsTested :
    goesTo (exec (.sumL 1 11) (inFrame .parsingSubpacketsByLength 33 ⟨1, 0, .byLength, 22, 11, .nil⟩))
      (fun t => t.st = .done) = true ∧
    goesTo (exec (.sumL 1 10) (inFrame .parsingSubpacketsByLength 33 ⟨1, 0, .byLength, 22, 10, .nil⟩))
      (fun t => t.st = .faulted) = true ∧
    goesTo (exec (.sumL 1 12) (inFrame .parsingSubpacketsByLength 33 ⟨1, 0, .byLength, 22, 12, .nil⟩))
      (fun t => t.st = .readingHeader) = true := by decide

theorem witness_DeclaredCountIsTested :
    goesTo (exec (.maximumC 1 1) (inFrame .parsingSubpacketsByCount 33 ⟨1, 3, .byCount, 18, 1, .cons (.literal 0 4 0) .nil⟩))
      (fun t => t.st = .done) = true ∧
    goesTo (exec (.maximumC 1 1) (inFrame .parsingSubpacketsByCount 18 ⟨1, 3, .byCount, 18, 1, .nil⟩))
      (fun t => t.st = .readingHeader) = true := by decide

theorem witness_CompletedPacketIsHandedOver :
    (Instr.lit 6 [9]).version = some (Packet.literal 6 4 9).version ∧
    (Instr.lit 6 [9]).typeId = some (Packet.literal 6 4 9).typeId ∧
    goesTo (exec (.lit 6 [9]) { onBits .done [] with ret := some (.literal 6 4 9) }) (fun t => t.st = .parseOk) = true ∧
    goesTo (exec (.lit 6 [9]) { inFrame .done 11 ⟨1, 0, .byCount, 0, 2, .nil⟩ with ret := some (.literal 6 4 9) })
      (fun t => t.st = .parsingSubpacketsByCount) = true := by decide

theorem witness_LiteralEvaluates :
    goesTo (exec (.lit 6 [9]) { onBits .parseOk [] with root := some (.literal 6 4 9) })
      (fun t => t.value = some 9 ∧ t.vsum = some 6) = true := by decide

theorem witness_ArithmeticPacketsEvaluate :
    valuesOf .nil = .ok [] ∧ valuesOf (.cons (.literal 0 4 3) (.cons (.literal 1 4 5) .nil)) = .ok [3, 5] ∧
    goesTo (exec (.sumC 1 0) { onBits .parseOk [] with root := some (.operator 1 0 .nil) }) (fun t => t.value = some 0) = true ∧
    goesTo (exec (.productL 1 22) { onBits .parseOk [] with
        root := some (.operator 1 1 (.cons (.literal 0 4 3) (.cons (.literal 1 4 5) .nil))) })
      (fun t => t.value = some 15 ∧ t.vsum = some 2) = true := by decide

theorem witness_ComparisonPacketsEvaluate :
    valueOf (.literal 1 4 5) = .ok 5 ∧
    goesTo (exec (.gtL 1 22) { onBits .parseOk [] with
        root := some (.operator 1 5 (.cons (.literal 1 4 5) (.cons (.literal 1 4 5) .nil))) })
      (fun t => t.value = some 0 ∧ t.vsum = some 3) = true := by decide

theorem witness_WrongSubpacketNumberFaults :
    goesTo (exec (.minimumC 1 0) { onBits .parseOk [] with root := some (.operator 1 2 .nil) })
      (fun t => t.efault = some (.emptySubpackets 2) ∧ t.vsum = some 1 ∧ t.value = none) = true ∧
    goesTo (exec (.ltC 1 1) { onBits .parseOk [] with root := some (.operator 1 6 (.cons (.literal 1 4 5) .nil)) })
      (fun t => t.efault = some (.wrongArity 6 1) ∧ t.vsum = some 2) = true ∧
    (Packets.nil).length ≠ 2 := by decide

theorem witness_FirstFaultingSubpacketIsReported :
    (Packets.cons (.literal 0 4 1) (.cons (.operator 0 2 .nil) .nil)).toList = [.literal 0 4 1] ++ .operator 0 2 .nil :: [] ∧
    valueOf (.literal 0 4 1) = .ok 1 ∧ valueOf (.operator 0 2 .nil) = .error (.emptySubpackets 2) ∧
    (Packets.cons (.literal 0 4 1) (.cons (.operator 0 2 .nil) .nil)).length = 2 ∧
    (Packets.cons (.literal 0 4 1) .nil).length ≠ 2 := by decide

theorem witness_InvalidTypeIdIsUnreachable :
    parseLine [0x31, 0x30, 0x30] = .ok (.literal 0 4 0, 11) ∧
    (Packet.operator 0 2 (.cons (.literal 0 4 8) .nil)).typed = true := by decide

theorem witness_VersionSumIsBounded : parseLine [0x46, 0x30, 0x30] = .ok (.literal 7 4 0, 11) := by decide

theorem witness_EventsDetermineTheTree :
    (Packet.operator 3 0 (.cons (.literal 1 4 2) .nil)).typed = true ∧
    events (.operator 3 0 (.cons (.literal 1 4 2) .nil)) = [.opened 3 0, .lit 1 2, .closed] := by decide

theorem witness_StepRunsTheDecodedInstruction :
    instrInProgress (onBits .readingHeader (litBits 6 [9])) = some (.lit 6 [9]) ∧
    decodeBits (unread (onBits .readingHeader (litBits 6 [9]))) = .ok (.lit 6 [9], []) ∧
    (started [0x39]).input[(started [0x39]).ci]? = some 0x39 ∧ decodeChar 0x39 = .ok .hex9 := by decide

theorem witness_StepFollowsTheStateRules :
    State.reset.request = none ∧ (onBits .readingLengthTypeFlag (b [1])).request = none := by decide

theorem witness_OperatorStaysInProgress :
    instrInProgress (onBits .readingHeader (opCBits 5 6 2)) = some (.gtC 6 2) ∧
    goesTo (step (onBits .readingHeader (opCBits 5 6 2))) (fun t => instrInProgress t = some (.gtC 6 2)) = true ∧
    instrInProgress { onBits .readingTotalLengthPrefix (List.replicate 15 false) with tid := 0 } = some (.sumL 0 0) ∧
    goesTo (step { onBits .readingTotalLengthPrefix (List.replicate 15 false) with tid := 0 })
      (fun t => instrInProgress t = some (.sumL 0 0)) = true := by decide

theorem witness_StepsFollowTheTransitionGraph :
    goesTo (step (onBits .readingHeader [])) (fun t => t.st = .faulted) = true ∧
    goesTo (step (onBits .readingHeader (packet6 [1, 0, 0] []))) (fun t => t.st = .readingLiteralGroup) = true := by decide

theorem witness_OnlyTheCursorMovesForward :
    goesTo (step (onBits .readingLengthTypeFlag (b [0]))) (fun t => t.pos = 1) = true ∧
    ParserState.readingLengthTypeFlag ≠ .loading ∧ ParserState.readingLengthTypeFlag ≠ .done ∧
    goesTo (step { onBits .done [] with ret := some (.literal 6 4 9) }) (fun t => t.root = some (.literal 6 4 9)) = true := by
  decide

theorem witness_PacketFrame :
    (Instr.lit 6 [9]).format ≠ .hexChar ∧
    goesTo (exec (.lit 6 [9]) (onBits .readingHeader (litBits 6 [9]))) (fun t => t.acc = 0 ∧ t.ver = 6) = true ∧
    goesTo (exec (.lit 6 [9]) { onBits .done [] with ret := some (.literal 6 4 9) }) (fun t => t.ret = none) = true := by decide

theorem witness_TruncatedReadsRaiseUnexpectedEof :
    goesTo (step (onBits .readingHeader (b [1, 1]))) (fun t => t.fault = some (.unexpectedEof 3 2 0)) = true ∧
    goesTo (step (onBits .readingHeader (b [1, 1, 0]))) (fun t => t.fault = some (.unexpectedEof 3 0 3) ∧ t.ver = 6) = true ∧
    goesTo (step (onBits .readingHeader (b [1, 1, 0, 1, 0]))) (fun t => t.fault = some (.unexpectedEof 3 2 3)) = true ∧
    goesTo (step (onBits .readingLiteralGroup [])) (fun t => t.fault = some (.unexpectedEof 1 0 0)) = true ∧
    goesTo (step (onBits .readingLiteralGroup (b [1]))) (fun t => t.fault = some (.unexpectedEof 4 0 1)) = true ∧
    goesTo (step (onBits .readingLiteralGroup (b [1, 0, 0, 0])))
      (fun t => t.fault = some (.unexpectedEof 4 3 1) ∧ t.cflag = 1) = true ∧
    goesTo (step (onBits .readingLengthTypeFlag [])) (fun t => t.fault = some (.unexpectedEof 1 0 0)) = true ∧
    goesTo (step (onBits .readingTotalLengthPrefix (List.replicate 14 true)))
      (fun t => t.fault = some (.unexpectedEof 15 14 0)) = true ∧
    goesTo (step (onBits .readingSubpacketCount (List.replicate 10 true)))
      (fun t => t.fault = some (.unexpectedEof 11 10 0)) = true := by decide

theorem witness_HaltedStatesHaveNoStep :
    halted State.reset = true ∧ halted { onBits .faulted [] with fault := some (.unexpectedEof 3 0 0) } = true ∧
    halted { onBits .parseOk [] with vsum := some 0 } = true := by decide

theorem witness_ResetFromEveryState :
    ({ inFrame .done 11 ⟨1, 0, .byCount, 0, 2, .nil⟩ with request := some .reset } : State).request = some .reset := by decide

theorem witness_StartClearsAndLoads :
    goesTo (step { onBits .faulted [] with request := some (.start [0x30]) }) (fun t => t.st = .loading ∧ t.input = [0x30]) = true ∧
    goesTo (step { State.reset with request := some (.start []) }) (fun t => t.st = .loading) = true ∧
    goesTo (step { onBits .parseOk [] with request := some (.start []) }) (fun t => t.st = .loading) = true ∧
    refusedAs (step { onBits .done [] with request := some (.start []) }) .startWhileBusy = true := by decide

theorem witness_TooLongLinesAreRefused :
    State.reset.st = .idle ∧ 1 < ([0x30, 0x31] : List CharCode).length ∧ ([0x30, 0x31] : List CharCode).length ≤ 2 := by decide

theorem witness_LinesAreIndependent :
    halted { State.reset with request := some (.start [0x30]) } = true ∧
    halted { onBits .faulted [] with fault := some (.malformedHex 0x47 0), request := some (.start [0x30]) } = true := by decide

theorem witness_EmptyOperatorsParse :
    (7 : TypeId) ≠ 4 ∧ parsePacket (b [1] ++ opLBits 7 1 0 ++ b [1, 1]) (0 + 2) 1 = .ok (.operator 1 7 .nil, 23) := by decide

theorem witness_ReferenceParseIsBounded :
    11 - 0 + 1 ≤ 12 ∧ parsePacket (litBits 6 [9]) 12 0 = .ok (.literal 6 4 9, 11) := by decide

theorem witness_TrailingBitsAreIgnored :
    parsePacket (litBits 6 [9] ++ b [1, 1, 1]) 15 0 = .ok (.literal 6 4 9, 11) ∧
    parsePacket ((litBits 6 [9] ++ b [1, 1, 1]).take 11 ++ b [0]) 15 0 = .ok (.literal 6 4 9, 11) := by decide

/-- `100` and its truncation `10`. -/
theorem witness_TruncationNeverChangesTheTree :
    parseLine ([0x31, 0x30] ++ [0x30]) = .ok (.literal 0 4 0, 11) ∧
    parseLine [0x31, 0x30] = .raised (.unexpectedEof 4 1 7) := by decide

theorem witness_ParserAlwaysProgresses :
    parsing (onBits .readingHeader (litBits 6 [9])).st = true ∧
    goesTo (step (onBits .readingHeader (litBits 6 [9])))
      (fun t => progress t < progress (onBits .readingHeader (litBits 6 [9]))) = true := by decide

theorem witness_ParserStepsAreBounded :
    decodeLine [] = .ok [] ∧ goesTo (run 1 (parserStart [] [])) (fun t => t.st = .faulted) = true := by decide

theorem witness_MachineAgreesWithTheReference :
    decodeLine [0x31, 0x30, 0x30] = .ok (b [0, 0, 0, 1, 0, 0, 0, 0, 0, 0, 0, 0]) ∧
    goesTo (run 3 (parserStart [0x31, 0x30, 0x30] (b [0, 0, 0, 1, 0, 0, 0, 0, 0, 0, 0, 0])))
      (fun t => t.st = .parseOk ∧ t.root = some (.literal 0 4 0) ∧ t.pos = 11) = true := by decide

theorem witness_HostSeesOnlyOutcomes :
    busy (onBits .done []) = true ∧ okPort (onBits .parseOk []) = true ∧ okPort (onBits .faulted []) = false := by decide

/-- The parser's start on the line `100`. -/
def start100 : State := parserStart [0x31, 0x30, 0x30] (b [0, 0, 0, 1, 0, 0, 0, 0, 0, 0, 0, 0])

/-- In the middle of an operator of count 1 whose one subpacket is complete. -/
def fullFrame : State :=
  inFrame .parsingSubpacketsByCount 29 ⟨1, 3, .byCount, 18, 1, .cons (.literal 0 4 0) .nil⟩

theorem witness_ParserInvariantIsKept :
    ParserInv start100 ∧ ParserInv fullFrame ∧ goesTo (step start100) (fun t => t.pos = 6) = true ∧
    goesTo (step fullFrame) (fun t => t.st = .done) = true := by
  refine ⟨?_, ?_, by decide, by decide⟩
  · constructor <;> simp [start100, parserStart, started, State.reset, waiting]
  · constructor <;>
      simp [fullFrame, inFrame, onBits, State.reset, waiting, FrameSound, Packets.typed, Packet.typed, Packets.length]

theorem witness_StoreInvariantIsKept : StoreInv start100 ∧ goesTo (step start100) (fun t => t.pos = 6) = true :=
  ⟨⟨by decide, ⟨_, rfl, rfl⟩, fun _ => ⟨rfl, rfl⟩⟩, by decide⟩

theorem witness_ResultInvariantIsKept :
    ResultInv start100 ∧ ResultInv { State.reset with st := .parseOk, root := some (.literal 0 4 0) } ∧
    goesTo (step start100) (fun t => t.pos = 6) = true ∧
    goesTo (step { State.reset with st := .parseOk, root := some (.literal 0 4 0) }) (fun t => t.value = some 0) = true := by
  refine ⟨?_, ?_, by decide, by decide⟩ <;> constructor <;> simp [start100, parserStart, started, State.reset]

theorem witness_NoStepGetsStuck : RunInv start100 :=
  ⟨witness_ParserInvariantIsKept.1, witness_StoreInvariantIsKept.1, witness_ResultInvariantIsKept.1⟩

theorem witness_BitStoreStaysCanonical :
    Memory.wf start100.bitmem = true ∧ goesTo (step start100) (fun t => t.pos = 6) = true := by decide

/-- One frame and 18 bits, the boundary. -/
theorem witness_StackDepthIsBounded :
    DepthInv { fullFrame with pos := 18 } ∧ ParserInv { fullFrame with pos := 18 } ∧
    goesTo (step { fullFrame with pos := 18 }) (fun t => t.stack = []) = true := by
  refine ⟨by unfold DepthInv; decide, ?_, by decide⟩
  constructor <;>
    simp [fullFrame, inFrame, onBits, State.reset, waiting, FrameSound, Packets.typed, Packet.typed, Packets.length]

theorem witness_FaultRecordsArePrecise :
    ResultInv (parserStart [] []) ∧ FaultRecordInv (parserStart [] []) ∧
    goesTo (step (parserStart [] [])) (fun t => t.fault = some (.unexpectedEof 3 0 0)) = true := by
  refine ⟨?_, ?_, by decide⟩
  · constructor <;> simp [parserStart, started, State.reset]
  · intro f h; cases h

end Sys2Proof.Tests
end

section
/-! SUPPORT. What a step of the block is: the host action that waits, or the state rule of ST with every field read from
BITMEM (R9, R113, R137 to R144, R157). The operands the decoder delivers are the fields that stand at POS, so the
instruction in progress does what the state rule does. -/

namespace Sys2Proof.Machine

variable {s t : State}

/-! ## The decoder's answers, by the bits they were read from -/

theorem accepted_eq_some {r : Except DecodeError (Instr × List Bit)} {i : Instr} :
    accepted r = some i ↔ ∃ rest, r = .ok (i, rest) := by
  unfold accepted
  split <;> simp_all

theorem orLiteralType_ok {o : Option Instr} {bs rest : List Bit} {i : Instr} (h : orLiteralType o bs = .ok (i, rest)) :
    o = some i ∧ bs = rest := by
  unfold orLiteralType at h
  split at h <;> simp_all

theorem eq_ofNat_of_toNat_eq {w k : Nat} {y : BitVec w} (h : y.toNat = k) : y = BitVec.ofNat w k := by
  rw [← h, BitVec.ofNat_toNat, BitVec.setWidth_eq]

/-- The instruction of an OP.L code acts as the OP.L operator of its type and operands. -/
theorem exec_of_opLInstr {y : TypeId} {v : Version} {n : LengthField} {i : Instr} (h : opLInstr y v n = some i) :
    exec i = opLTransition y v n := by
  unfold opLInstr at h
  split at h
  case h_8 => cases h
  all_goals
    next hy =>
      cases h
      obtain rfl := eq_ofNat_of_toNat_eq hy
      rfl

/-- The instruction of an OP.C code acts as the OP.C operator of its type and operands. -/
theorem exec_of_opCInstr {y : TypeId} {v : Version} {c : CountField} {i : Instr} (h : opCInstr y v c = some i) :
    exec i = opCTransition y v c := by
  unfold opCInstr at h
  split at h
  case h_8 => cases h
  all_goals
    next hy =>
      cases h
      obtain rfl := eq_ofNat_of_toNat_eq hy
      rfl

theorem decodeOpL_ok {v : Version} {y : TypeId} {bs rest : List Bit} {i : Instr}
    (h : decodeOpL v y bs = .ok (i, rest)) :
    ∃ n : LengthField, bs = fieldBits n ++ rest ∧ exec i = opLTransition y v n := by
  unfold decodeOpL at h
  split at h
  · next n tail hn =>
    obtain ⟨hi, rfl⟩ := orLiteralType_ok h
    exact ⟨n, takeField_ok hn, exec_of_opLInstr hi⟩
  · cases h

theorem decodeOpC_ok {v : Version} {y : TypeId} {bs rest : List Bit} {i : Instr}
    (h : decodeOpC v y bs = .ok (i, rest)) :
    ∃ c : CountField, bs = fieldBits c ++ rest ∧ exec i = opCTransition y v c := by
  unfold decodeOpC at h
  split at h
  · next c tail hc =>
    obtain ⟨hi, rfl⟩ := orLiteralType_ok h
    exact ⟨c, takeField_ok hc, exec_of_opCInstr hi⟩
  · cases h

/-- An operator's bits after its header: the flag that selects the form, then the field of that form (R86). -/
theorem decodeOperator_ok {v : Version} {y : TypeId} {bs rest : List Bit} {i : Instr}
    (h : decodeOperator v y bs = .ok (i, rest)) :
    (∃ n : LengthField, bs = fieldBits (0 : Flag) ++ (fieldBits n ++ rest) ∧ exec i = opLTransition y v n) ∨
      (∃ c : CountField, bs = fieldBits (1 : Flag) ++ (fieldBits c ++ rest) ∧ exec i = opCTransition y v c) := by
  unfold decodeOperator at h
  split at h
  · next l tail hl =>
    have hbits := takeField_ok hl
    split at h
    · next h0 =>
      obtain ⟨n, rfl, hexec⟩ := decodeOpL_ok h
      exact .inl ⟨n, h0 ▸ hbits, hexec⟩
    · next h0 =>
      obtain ⟨c, rfl, hexec⟩ := decodeOpC_ok h
      have h1 : l = 1 := by bv_omega
      exact .inr ⟨c, h1 ▸ hbits, hexec⟩
  · cases h

theorem decodeGroups_ne_nil {bs rest : List Bit} {gs : List Nibble} (h : decodeGroups bs = .ok (gs, rest)) :
    gs ≠ [] := by
  unfold decodeGroups at h
  split at h
  · split at h
    · split at h <;> cases h; simp
    · cases h; simp
  · cases h
  · cases h

/-- A literal's first group stands at the front: its flag tells whether groups follow, then its payload (R84). -/
theorem decodeGroups_ok {bs rest : List Bit} {gs : List Nibble} (h : decodeGroups bs = .ok (gs, rest)) :
    ∃ g gs' tail, gs = g :: gs' ∧ bs = fieldBits (continueFlag gs') ++ (fieldBits g ++ tail) := by
  unfold decodeGroups at h
  split at h
  · next flag b3 b2 b1 b0 tail =>
    have hg : fieldBits (fieldOf 4 [b3, b2, b1, b0]) = [b3, b2, b1, b0] := fieldBits_fieldOf _ rfl
    split at h
    · next hflag =>
      split at h
      · next gs' rest' htail =>
        cases h
        refine ⟨_, gs', tail, rfl, ?_⟩
        rw [hg, hflag, continueFlag, if_neg (by simpa using decodeGroups_ne_nil htail)]
        rfl
      · cases h
    · next hflag =>
      cases h
      refine ⟨_, [], rest, rfl, ?_⟩
      rw [hg, Bool.eq_false_iff.2 hflag]
      rfl
  · cases h
  · cases h

theorem decodeLiteral_ok {v : Version} {bs rest : List Bit} {i : Instr} (h : decodeLiteral v bs = .ok (i, rest)) :
    ∃ g gs tail, i = .lit v (g :: gs) ∧ bs = fieldBits (continueFlag gs) ++ (fieldBits g ++ tail) := by
  unfold decodeLiteral at h
  split at h
  · next hgs =>
    obtain ⟨g, gs, tail, rfl, hbits⟩ := decodeGroups_ok hgs
    cases h
    exact ⟨g, gs, tail, rfl, hbits⟩
  · cases h

/-- A packet's bits begin with its header; what follows is a literal's groups or an operator's flag and field (R83). -/
theorem decodeBits_ok {bs rest : List Bit} {i : Instr} (h : decodeBits bs = .ok (i, rest)) :
    ∃ (v : Version) (y : TypeId) (tail : List Bit), bs = fieldBits v ++ (fieldBits y ++ tail) ∧
      ((y = 4 ∧ decodeLiteral v tail = .ok (i, rest)) ∨ (y ≠ 4 ∧ decodeOperator v y tail = .ok (i, rest))) := by
  unfold decodeBits at h
  split at h
  · cases h
  · next v bs1 hv =>
    split at h
    · cases h
    · next y tail hy =>
      refine ⟨v, y, tail, by rw [takeField_ok hv, takeField_ok hy], ?_⟩
      split at h
      · next h4 => exact .inl ⟨h4, h⟩
      · next h4 => exact .inr ⟨h4, h⟩

theorem exec_of_mem_charTable : ∀ row ∈ charTable, ∃ v, hexVal row.1 = some v ∧ exec row.2 = hexDigit row.1 v := by
  intro row hrow
  simp only [charTable, List.mem_cons, List.not_mem_nil, or_false] at hrow
  rcases hrow with rfl | rfl | rfl | rfl | rfl | rfl | rfl | rfl | rfl | rfl | rfl | rfl | rfl | rfl | rfl | rfl | rfl |
    rfl | rfl | rfl | rfl | rfl <;> exact ⟨_, rfl, rfl⟩

/-- The instruction of a character code takes that character with its digit's value (R81). -/
theorem exec_of_decodeChar {c : CharCode} {i : Instr} (h : decodeChar c = .ok i) :
    ∃ v, hexVal c = some v ∧ exec i = hexDigit c v := by
  unfold decodeChar at h
  split at h
  · next row hrow =>
    cases h
    have hc : row.1 = c := by simpa using List.find?_some hrow
    exact hc ▸ exec_of_mem_charTable row (List.mem_of_find?_eq_some hrow)
  · cases h

/-! ## Operands are the fields at POS -/

/-- A field at the front of the unread bits: it is all there, BITMEM holds it, and the rest is unread after it. -/
theorem field_of_unread {w : Nat} {v : BitVec w} {rest : List Bit} (h : unread s = fieldBits v ++ rest) :
    w ≤ remaining s ∧ memRead w s.bitmem s.pos = some v ∧ unread (s.setPos (s.pos + w)) = rest := by
  have hlen : w ≤ (Memory.window s.bitmem s.pos (remaining s)).length := by
    change w ≤ (unread s).length
    simp [h]
  refine ⟨hlen.trans (Memory.length_window_le _ _ _), ?_, ?_⟩
  · rw [memRead, Memory.readBits_of_window _ hlen]
    change some (fieldOf w ((unread s).take w)) = some v
    rw [h, List.take_left' (length_fieldBits v), fieldOf_fieldBits]
  · have hrest := Memory.drop_window _ _ _ _ hlen
    change (unread s).drop w = _ at hrest
    rw [h, List.drop_left' (length_fieldBits v)] at hrest
    rw [hrest, unread, remaining, remaining, Nat.sub_sub]
    rfl

/-- A read answers the same whether the decoder delivers the field at POS or BITMEM is read. -/
theorem field_operand {w : Nat} {v : BitVec w} {rest : List Bit} (h : unread s = fieldBits v ++ rest)
    (k : BitVec w → State → Out) : field w (some v) s k = field w none s k := by
  obtain ⟨hroom, hread, -⟩ := field_of_unread h
  rw [field_enough hroom, field_read hroom hread]

/-- Two fields in a row, the second read from a state that differs from the first's in no bit of the store. -/
theorem field_field_operand {w x : Nat} {v : BitVec w} {u : BitVec x} {rest : List Bit} {g : BitVec w → State → State}
    (hg : ∀ s', unread (g v s') = unread s') (h : unread s = fieldBits v ++ (fieldBits u ++ rest))
    (k : BitVec w → BitVec x → State → Out) :
    (field w (some v) s fun v s => field x (some u) (g v s) (k v)) =
      field w none s fun v s => field x none (g v s) (k v) := by
  obtain ⟨hroom, hread, hrest⟩ := field_of_unread h
  rw [field_enough hroom, field_read hroom hread]
  exact field_operand ((hg _).trans hrest) _

theorem readingHeader_operand {v : Version} {y : TypeId} {rest : List Bit}
    (h : unread s = fieldBits v ++ (fieldBits y ++ rest)) :
    readingHeader (some v) (some y) s = readingHeader none none s :=
  field_field_operand (g := fun v s => s.setVer v) (fun _ => rfl) h _

theorem readingLiteralGroup_operand {f : Flag} {g : Nibble} {rest : List Bit}
    (h : unread s = fieldBits f ++ (fieldBits g ++ rest)) :
    readingLiteralGroup (some f) (some g) s = readingLiteralGroup none none s :=
  field_field_operand (g := fun f s => s.setCflag f) (fun _ => rfl) h _

theorem readingLengthTypeFlag_operand {f : Flag} {rest : List Bit} (h : unread s = fieldBits f ++ rest) :
    readingLengthTypeFlag (some f) s = readingLengthTypeFlag none s := field_operand h _

theorem readingTotalLengthPrefix_operand {n : LengthField} {rest : List Bit} (h : unread s = fieldBits n ++ rest) :
    readingTotalLengthPrefix (some n) s = readingTotalLengthPrefix none s := field_operand h _

theorem readingSubpacketCount_operand {c : CountField} {rest : List Bit} (h : unread s = fieldBits c ++ rest) :
    readingSubpacketCount (some c) s = readingSubpacketCount none s := field_operand h _

/-! ## A step is the state rule of ST -/

theorem exec_loading {i : Instr} (hst : s.st = .loading) (h : fetchChar s = some i) : exec i s = loadingStep s := by
  unfold fetchChar at h
  split at h
  · next c hc =>
    obtain ⟨rest, hdecode⟩ := accepted_eq_some.1 h
    simp only [decode] at hdecode
    split at hdecode
    · next hi =>
      cases hdecode
      obtain ⟨v, hv, hexec⟩ := exec_of_decodeChar hi
      simp [hexec, hexDigit, loadingStep, hst, hc, hv]
    · cases hdecode
  · cases h

theorem exec_readingHeader {i : Instr} {rest : List Bit} (hst : s.st = .readingHeader)
    (h : decodeBits (unread s) = .ok (i, rest)) : exec i s = readingHeader none none s := by
  obtain ⟨v, y, tail, hbits, ⟨rfl, hlit⟩ | ⟨-, hop⟩⟩ := decodeBits_ok h
  · obtain ⟨g, gs, -, rfl, -⟩ := decodeLiteral_ok hlit
    simpa [exec, execLit, litTransition, isCurrent, hst] using readingHeader_operand hbits
  · obtain ⟨n, -, hexec⟩ | ⟨c, -, hexec⟩ := decodeOperator_ok hop
    · simpa [hexec, opLTransition, isCurrent, hst] using readingHeader_operand hbits
    · simpa [hexec, opCTransition, isCurrent, hst] using readingHeader_operand hbits

theorem exec_readingLiteralGroup {i : Instr} {rest : List Bit} (hst : s.st = .readingLiteralGroup) (h4 : s.tid = 4)
    (h : decodeLiteral s.ver (unread s) = .ok (i, rest)) : exec i s = readingLiteralGroup none none s := by
  obtain ⟨g, gs, tail, rfl, hbits⟩ := decodeLiteral_ok h
  simpa [exec, execLit, litTransition, isCurrent, hst, h4] using readingLiteralGroup_operand hbits

theorem exec_readingLengthTypeFlag {i : Instr} {rest : List Bit} (hst : s.st = .readingLengthTypeFlag)
    (h : decodeOperator s.ver s.tid (unread s) = .ok (i, rest)) : exec i s = readingLengthTypeFlag none s := by
  obtain ⟨n, hbits, hexec⟩ | ⟨c, hbits, hexec⟩ := decodeOperator_ok h
  · simpa [hexec, opLTransition, isCurrent, hst, lengthTypeOf] using readingLengthTypeFlag_operand hbits
  · simpa [hexec, opCTransition, isCurrent, hst, lengthTypeOf] using readingLengthTypeFlag_operand hbits

theorem exec_readingTotalLengthPrefix {i : Instr} {rest : List Bit} (hst : s.st = .readingTotalLengthPrefix)
    (h : decodeOpL s.ver s.tid (unread s) = .ok (i, rest)) : exec i s = readingTotalLengthPrefix none s := by
  obtain ⟨n, hbits, hexec⟩ := decodeOpL_ok h
  simpa [hexec, opLTransition, isCurrent, hst] using readingTotalLengthPrefix_operand hbits

theorem exec_readingSubpacketCount {i : Instr} {rest : List Bit} (hst : s.st = .readingSubpacketCount)
    (h : decodeOpC s.ver s.tid (unread s) = .ok (i, rest)) : exec i s = readingSubpacketCount none s := by
  obtain ⟨c, hbits, hexec⟩ := decodeOpC_ok h
  simpa [hexec, opCTransition, isCurrent, hst] using readingSubpacketCount_operand hbits

theorem exec_parsingSubpacketsByLength {i : Instr} (hst : s.st = .parsingSubpacketsByLength)
    (h : fetchFrame .byLength s = some i) : exec i s = parsingSubpacketsByLength s := by
  unfold fetchFrame at h
  split at h
  · cases h
  · next f rest hstack =>
    dsimp only at h
    split at h
    · simp [exec_of_opLInstr h, opLTransition, isCurrent, hst, hstack]
    · cases h

theorem exec_parsingSubpacketsByCount {i : Instr} (hst : s.st = .parsingSubpacketsByCount)
    (h : fetchFrame .byCount s = some i) : exec i s = parsingSubpacketsByCount s := by
  unfold fetchFrame at h
  split at h
  · cases h
  · next f rest hstack =>
    dsimp only at h
    split at h
    · simp [exec_of_opCInstr h, opCTransition, isCurrent, hst, hstack]
    · cases h

/-- The instruction in progress does what the state rule of ST does. -/
theorem exec_instrInProgress {i : Instr} (h : instrInProgress s = some i) : exec i s = sequencer s := by
  unfold instrInProgress at h
  unfold sequencer
  cases hst : s.st <;> simp only [hst] at h ⊢
  case idle | done | parseOk | faulted => cases h
  case loading => exact exec_loading hst h
  case readingHeader =>
    obtain ⟨_, hok⟩ := accepted_eq_some.1 h
    exact exec_readingHeader hst hok
  case readingLiteralGroup =>
    split at h
    · next h4 =>
      obtain ⟨_, hok⟩ := accepted_eq_some.1 h
      exact exec_readingLiteralGroup hst h4 hok
    · cases h
  case readingLengthTypeFlag =>
    obtain ⟨_, hok⟩ := accepted_eq_some.1 h
    exact exec_readingLengthTypeFlag hst hok
  case readingTotalLengthPrefix =>
    obtain ⟨_, hok⟩ := accepted_eq_some.1 h
    exact exec_readingTotalLengthPrefix hst hok
  case readingSubpacketCount =>
    obtain ⟨_, hok⟩ := accepted_eq_some.1 h
    exact exec_readingSubpacketCount hst hok
  case parsingSubpacketsByLength => exact exec_parsingSubpacketsByLength hst h
  case parsingSubpacketsByCount => exact exec_parsingSubpacketsByCount hst h

/-- Without a host action, a step is the state rule of ST with every field read from BITMEM. -/
theorem step_eq_sequencer (h : s.request = none) : step s = sequencer s := by
  unfold step
  rw [h]
  dsimp only
  split
  · next i hi => exact exec_instrInProgress hi
  · rfl

/-- Everything a step can do: RESET, START, or the state rule of ST. -/
theorem step_next (h : step s = .next t) :
    t = State.reset ∨ (∃ line, t = started line) ∨ (s.request = none ∧ sequencer s = .next t) := by
  cases hr : s.request with
  | none => exact .inr (.inr ⟨rfl, step_eq_sequencer hr ▸ h⟩)
  | some c =>
    simp only [step, hr] at h
    cases c with
    | reset => cases h; exact .inl rfl
    | start line =>
      simp only [hostAction, startWith] at h
      split at h
      · cases h
      · split at h <;> cases h
        exact .inr (.inl ⟨line, rfl⟩)

end Sys2Proof.Machine
end

section
/-! SUPPORT. The host's START under a finite MAX_CHARS, and the depth of the stack (R8, R31, R244). -/

namespace Sys2Proof.Machine

variable {s t : State}

/-! ## START under a finite MAX_CHARS -/

theorem busy_eq_false (h : s.st = .idle ∨ s.st = .parseOk ∨ s.st = .faulted) : busy s = false := by
  unfold busy
  rcases h with h | h | h <;> rw [h]

theorem startWith_of_not_busy {m : Option Nat} {line : List CharCode} (h : busy s = false) :
    startWith m line s = if fits m line then .next (started line) else .refused .lineTooLong := by
  simp [startWith, h]

theorem fits_some {m : Nat} {line : List CharCode} : fits (some m) line = true ↔ line.length ≤ m := by
  simp [fits]

/-- Settles O42: in a state that takes START, whether it is taken is `fits` alone. -/
theorem tooLongLinesAreRefused : Obligations.TooLongLinesAreRefused := by
  intro m s line hst
  rw [startWith_of_not_busy (busy_eq_false hst)]
  constructor
  · intro hlong
    exact if_neg (by rw [fits_some]; omega)
  · intro hshort
    exact if_pos (fits_some.2 hshort)

/-! ## The depth of the stack -/

/-- The bound passes to a state whose stack is no deeper and whose POS has moved as far as the bits that ST says are
read. -/
theorem DepthInv.of_le (h : DepthInv s) (hstack : t.stack.length ≤ s.stack.length)
    (hpos : s.pos + prefixRead t.st ≤ t.pos + prefixRead s.st) : DepthInv t := by
  unfold DepthInv at *
  omega

theorem depthInv_raise {u : State} {f : FaultRecord} (h : DepthInv s) (hstack : u.stack = s.stack)
    (hpos : s.pos ≤ u.pos) : DepthInv (raise f u) :=
  h.of_le (by simp [hstack]) (by simp only [raise_pos, raise_st, prefixRead]; omega)

@[simp] theorem afterOpen_pos (m : Mode) (w n : Nat) : (afterOpen m w n s).pos = s.pos + w := rfl

@[simp] theorem afterOpen_st (m : Mode) (w n : Nat) : (afterOpen m w n s).st = resumeState m := rfl

@[simp] theorem afterOpen_stack (m : Mode) (w n : Nat) :
    (afterOpen m w n s).stack = newFrame m n (s.setPos (s.pos + w)) :: s.stack := rfl

@[simp] theorem prefixRead_resumeState (m : Mode) : prefixRead (resumeState m) = 0 := by cases m <;> rfl

/-- A frame takes 18 bits: its length or count field and the bits of its packet before that (R87, R88). -/
theorem depthInv_afterOpen {m : Mode} {w n : Nat} (h : DepthInv s) (hw : 18 ≤ prefixRead s.st + w) :
    DepthInv (afterOpen m w n s) := by
  unfold DepthInv at *
  simp only [afterOpen_pos, afterOpen_st, afterOpen_stack, List.length_cons, prefixRead_resumeState]
  omega

theorem depthInv_readingHeader (hst : s.st = .readingHeader) (h : DepthInv s)
    (hstep : readingHeader none none s = .next t) : DepthInv t := by
  rcases readingHeader_next hstep with ⟨-, rfl⟩ | ⟨-, v, -, ⟨-, rfl⟩ | ⟨-, y, -, rfl⟩⟩
  · exact depthInv_raise h rfl le_rfl
  · exact depthInv_raise h rfl (by simp)
  · refine h.of_le ?_ ?_ <;> unfold afterHeader <;> split <;> simp [hst, prefixRead]

theorem depthInv_readingLiteralGroup (hst : s.st = .readingLiteralGroup) (h : DepthInv s)
    (hstep : readingLiteralGroup none none s = .next t) : DepthInv t := by
  rcases readingLiteralGroup_next hstep with ⟨-, rfl⟩ | ⟨-, f, -, ⟨-, rfl⟩ | ⟨-, g, -, rfl⟩⟩
  · exact depthInv_raise h rfl le_rfl
  · exact depthInv_raise h rfl (by simp)
  · refine h.of_le ?_ ?_ <;> unfold foldGroup <;> split <;> simp [hst, prefixRead]
    omega

theorem depthInv_readingLengthTypeFlag (hst : s.st = .readingLengthTypeFlag) (h : DepthInv s)
    (hstep : readingLengthTypeFlag none s = .next t) : DepthInv t := by
  rcases readingLengthTypeFlag_next hstep with ⟨-, rfl⟩ | ⟨-, i, -, rfl⟩
  · exact depthInv_raise h rfl le_rfl
  · refine h.of_le le_rfl ?_
    unfold afterLengthType
    split <;> simp [hst, prefixRead]

theorem depthInv_readingTotalLengthPrefix (hst : s.st = .readingTotalLengthPrefix) (h : DepthInv s)
    (hstep : readingTotalLengthPrefix none s = .next t) : DepthInv t := by
  rcases readingTotalLengthPrefix_next hstep with ⟨-, rfl⟩ | ⟨-, n, -, rfl⟩
  · exact depthInv_raise h rfl le_rfl
  · exact depthInv_afterOpen h (by simp [hst, prefixRead])

theorem depthInv_readingSubpacketCount (hst : s.st = .readingSubpacketCount) (h : DepthInv s)
    (hstep : readingSubpacketCount none s = .next t) : DepthInv t := by
  rcases readingSubpacketCount_next hstep with ⟨-, rfl⟩ | ⟨-, c, -, rfl⟩
  · exact depthInv_raise h rfl le_rfl
  · exact depthInv_afterOpen h (by simp [hst, prefixRead])

theorem depthInv_completeFrame {f : Frame} {rest : List Frame} (hstack : s.stack = f :: rest) (h : DepthInv s) :
    DepthInv (completeFrame f rest s) :=
  h.of_le (by simp [completeFrame, hstack]) (by simp [completeFrame, prefixRead])

theorem depthInv_parsingSubpacketsByLength (h : DepthInv s) (hstep : parsingSubpacketsByLength s = .next t) :
    DepthInv t := by
  obtain ⟨f, rest, hstack, -, ⟨-, rfl⟩ | ⟨-, rfl⟩ | ⟨-, rfl⟩⟩ := parsingSubpacketsByLength_next hstep
  · exact depthInv_completeFrame hstack h
  · exact depthInv_raise h rfl le_rfl
  · exact h.of_le le_rfl (by simp [prefixRead])

theorem depthInv_parsingSubpacketsByCount (h : DepthInv s) (hstep : parsingSubpacketsByCount s = .next t) :
    DepthInv t := by
  obtain ⟨f, rest, hstack, ⟨-, rfl⟩ | ⟨-, rfl⟩⟩ := parsingSubpacketsByCount_next hstep
  · exact depthInv_completeFrame hstack h
  · exact h.of_le le_rfl (by simp [prefixRead])

/-- Handing a packet over opens no frame: it fills ROOT, or a frame that is there already. -/
theorem depthInv_done (h : DepthInv s) (hstep : done s = .next t) : DepthInv t := by
  obtain ⟨p, -, rfl⟩ := done_next hstep
  refine h.of_le ?_ ?_ <;> unfold handOver <;> split
  · simp
  · simp [*]
  · simp [prefixRead]
  · simp

theorem depthInv_backEnd (h : DepthInv s) (hstep : backEnd s = .next t) : DepthInv t := by
  obtain ⟨-, p, -, rfl⟩ := backEnd_next hstep
  refine h.of_le ?_ ?_ <;> unfold setResults <;> split <;> simp

/-- Loading sets POS back to 0, which the empty stack of a line not yet parsed allows (R113, R150). -/
theorem depthInv_loadingStep (hempty : s.stack = []) (h : DepthInv s)
    (hstep : loadingStep s = .next t) : DepthInv t := by
  rcases loadingStep_next hstep with ⟨-, rfl⟩ | ⟨c, -, ⟨-, rfl⟩ | ⟨v, -, rfl⟩⟩
  · simp [DepthInv, endOfLine, hempty, prefixRead]
  · exact depthInv_raise h rfl le_rfl
  · exact h.of_le le_rfl le_rfl

/-- Every state rule keeps the bound of 18 bits a frame. -/
theorem depthInv_sequencer (hparser : ParserInv s) (h : DepthInv s) (hstep : sequencer s = .next t) : DepthInv t := by
  unfold sequencer at hstep
  cases hst : s.st <;> simp only [hst] at hstep
  case idle | faulted => cases hstep
  case loading => exact depthInv_loadingStep (hparser.emptyStack (.inr (.inl hst))) h hstep
  case readingHeader => exact depthInv_readingHeader hst h hstep
  case readingLiteralGroup => exact depthInv_readingLiteralGroup hst h hstep
  case readingLengthTypeFlag => exact depthInv_readingLengthTypeFlag hst h hstep
  case readingTotalLengthPrefix => exact depthInv_readingTotalLengthPrefix hst h hstep
  case parsingSubpacketsByLength => exact depthInv_parsingSubpacketsByLength h hstep
  case readingSubpacketCount => exact depthInv_readingSubpacketCount hst h hstep
  case parsingSubpacketsByCount => exact depthInv_parsingSubpacketsByCount h hstep
  case done => exact depthInv_done h hstep
  case parseOk => exact depthInv_backEnd h hstep

theorem depthInv_reset : DepthInv State.reset := by simp [DepthInv, State.reset, prefixRead]

theorem depthInv_started (line : List CharCode) : DepthInv (started line) := by
  simp [DepthInv, started, State.reset, prefixRead]

theorem depthInv_step (hparser : ParserInv s) (h : DepthInv s) (hstep : step s = .next t) : DepthInv t := by
  obtain rfl | ⟨line, rfl⟩ | ⟨-, hseq⟩ := step_next hstep
  · exact depthInv_reset
  · exact depthInv_started line
  · exact depthInv_sequencer hparser h hseq

/-- 18 bits a frame before POS, and POS inside the line, bound the depth by LEN/18 (R8 b). -/
theorem stack_length_le (hparser : ParserInv s) (h : DepthInv s) : s.stack.length ≤ s.len / 18 := by
  have hpos := hparser.cursor
  unfold DepthInv at h
  omega

/-- Settles O51: every step keeps the bound of 18 bits a frame, from reset on. -/
theorem stackDepthIsBounded : Obligations.StackDepthIsBounded :=
  ⟨fun _ _ => depthInv_step, depthInv_reset, fun _ => stack_length_le⟩

end Sys2Proof.Machine
end

section
/-! SUPPORT. The reference function PARSE_PACKET (R136): its recursion bound is enough, and a packet it returns takes at
least 11 bits for each packet of the tree, all inside the bit sequence (R8, R34). -/

namespace Sys2Proof.Machine

variable {bs : List Bit}

/-! ## Sequencing and reads -/

theorem Ref.bind_eq_ok {α β : Type} {r : Ref α} {k : α → Ref β} {b : β} :
    r.bind k = .ok b ↔ ∃ a, r = .ok a ∧ k a = .ok b := by
  cases r <;> simp [Ref.bind]

theorem Ref.bind_eq_outOfFuel {α β : Type} {r : Ref α} {k : α → Ref β} :
    r.bind k = .outOfFuel ↔ r = .outOfFuel ∨ ∃ a, r = .ok a ∧ k a = .outOfFuel := by
  cases r <;> simp [Ref.bind]

theorem rd_eq_ok {p w : Nat} {a : BitVec w × Nat} :
    rd bs p w = .ok a ↔ w ≤ bs.length - p ∧ a = (fieldOf w ((bs.drop p).take w), p + w) := by
  unfold rd
  split
  · next h => simp; omega
  · next h => simp [eq_comm]; omega

theorem rd_ne_outOfFuel {p w : Nat} : rd bs p w ≠ .outOfFuel := by
  unfold rd
  split <;> simp

/-! ## Sequences of packets -/

theorem Packets.typed_snoc (ps : Packets) (p : Packet) : (ps.snoc p).typed = (ps.typed && p.typed) := by
  match ps with
  | .nil => simp [Packets.snoc, Packets.typed]
  | .cons q ps => simp [Packets.snoc, Packets.typed, Packets.typed_snoc ps p, Bool.and_assoc]

theorem packetCountAll_snoc (ps : Packets) (p : Packet) :
    packetCountAll (ps.snoc p) = packetCountAll ps + packetCount p := by
  match ps with
  | .nil => simp [Packets.snoc, packetCountAll]
  | .cons q ps => simp [Packets.snoc, packetCountAll, packetCountAll_snoc ps p, Nat.add_assoc]

theorem packetCount_pos (p : Packet) : 0 < packetCount p := by
  cases p <;> simp [packetCount]

/-! ## What a result takes -/

/-- A packet read from p on takes 11 bits for each packet of its tree, inside the bits, and has the right shape. -/
def PacketBounded (bs : List Bit) (fuel : Nat) : Prop :=
  ∀ p q r, parsePacket bs fuel p = .ok (r, q) → p + 11 * packetCount r ≤ q ∧ q ≤ bs.length ∧ r.typed = true

/-- Subpackets read from p on, after `kids`, up to q: the same of those that were added. -/
def KidsBounded (bs : List Bit) (p : Nat) (kids kids' : Packets) (q : Nat) : Prop :=
  p + 11 * packetCountAll kids' ≤ q + 11 * packetCountAll kids ∧ q ≤ bs.length ∧ kids'.typed = true

theorem KidsBounded.refl {p : Nat} {kids : Packets} (hp : p ≤ bs.length) (hkids : kids.typed = true) :
    KidsBounded bs p kids kids p := ⟨le_rfl, hp, hkids⟩

/-- One more subpacket in front of the rest. -/
theorem KidsBounded.of_snoc {p p' q : Nat} {k : Packet} {kids kids' : Packets} (hk : p + 11 * packetCount k ≤ p')
    (h : KidsBounded bs p' (kids.snoc k) kids' q) : KidsBounded bs p kids kids' q := by
  obtain ⟨hcount, hq, htyped⟩ := h
  rw [packetCountAll_snoc] at hcount
  exact ⟨by omega, hq, htyped⟩

theorem litGroups_bounded {fuel p acc v q : Nat} (h : litGroups bs fuel p acc = .ok (v, q)) :
    p + 5 ≤ q ∧ q ≤ bs.length := by
  induction fuel generalizing p acc with
  | zero => cases h
  | succ fuel ih =>
    simp only [litGroups, Ref.bind_eq_ok, rd_eq_ok] at h
    obtain ⟨_, ⟨h1, rfl⟩, _, ⟨h4, rfl⟩, h⟩ := h
    dsimp only at h1 h4 h
    split at h
    · have := ih h
      omega
    · cases h
      omega

section
variable {N : Nat} (hpacket : ∀ n < N, PacketBounded bs n)
include hpacket

theorem byLength_bounded {fuel p mark n q : Nat} {kids kids' : Packets} (hN : fuel ≤ N) (hp : p ≤ bs.length)
    (hkids : kids.typed = true) (h : byLength bs fuel p mark n kids = .ok (kids', q)) :
    KidsBounded bs p kids kids' q := by
  induction fuel generalizing p kids with
  | zero => cases h
  | succ fuel ih =>
    simp only [byLength] at h
    split at h
    · cases h
      exact .refl hp hkids
    · split at h
      · cases h
      · obtain ⟨⟨k, p'⟩, hk, h⟩ := Ref.bind_eq_ok.1 h
        obtain ⟨hbits, hp', htyped⟩ := hpacket fuel (by omega) p p' k hk
        exact .of_snoc hbits (ih (by omega) hp' (by simp [Packets.typed_snoc, hkids, htyped]) h)

theorem byCount_bounded {fuel p c q : Nat} {kids kids' : Packets} (hN : fuel ≤ N) (hp : p ≤ bs.length)
    (hkids : kids.typed = true) (h : byCount bs fuel p c kids = .ok (kids', q)) : KidsBounded bs p kids kids' q := by
  induction fuel generalizing p kids with
  | zero => cases h
  | succ fuel ih =>
    simp only [byCount] at h
    split at h
    · cases h
      exact .refl hp hkids
    · obtain ⟨⟨k, p'⟩, hk, h⟩ := Ref.bind_eq_ok.1 h
      obtain ⟨hbits, hp', htyped⟩ := hpacket fuel (by omega) p p' k hk
      exact .of_snoc hbits (ih (by omega) hp' (by simp [Packets.typed_snoc, hkids, htyped]) h)

end

/-- What stands before an operator's subpackets takes 18 bits or more, which pays for the operator itself (R87, R88). -/
theorem bounded_of_kidsBounded {p0 p q : Nat} {v : Version} {y : TypeId} {kids : Packets} (hy : y ≠ 4)
    (hp : p0 + 18 ≤ p) (h : KidsBounded bs p .nil kids q) :
    p0 + 11 * packetCount (.operator v y kids) ≤ q ∧ q ≤ bs.length ∧ (Packet.operator v y kids).typed = true := by
  obtain ⟨hcount, hq, htyped⟩ := h
  simp only [packetCountAll] at hcount
  refine ⟨by simp only [packetCount]; omega, hq, by simpa [Packet.typed, htyped] using hy⟩

theorem parsePacket_bounded (bs : List Bit) (fuel : Nat) : PacketBounded bs fuel := by
  induction fuel using Nat.strong_induction_on with
  | _ fuel ih =>
    intro p q r h
    cases fuel with
    | zero => cases h
    | succ fuel =>
      simp only [parsePacket, Ref.bind_eq_ok, rd_eq_ok] at h
      obtain ⟨_, ⟨hv, rfl⟩, _, ⟨hy, rfl⟩, h⟩ := h
      dsimp only at hv hy h
      split at h
      · next h4 =>
        obtain ⟨⟨x, p3⟩, hlit, h⟩ := Ref.bind_eq_ok.1 h
        cases h
        obtain ⟨hbits, hq⟩ := litGroups_bounded hlit
        exact ⟨by simp only [packetCount]; omega, hq, by simp [Packet.typed, h4]⟩
      · next h4 =>
        simp only [Ref.bind_eq_ok, rd_eq_ok] at h
        obtain ⟨_, ⟨hi, rfl⟩, h⟩ := h
        dsimp only at hi h
        split at h
        all_goals
          simp only [Ref.bind_eq_ok, rd_eq_ok] at h
          obtain ⟨_, ⟨hn, rfl⟩, ⟨kids, q'⟩, hkids, h⟩ := h
          cases h
          dsimp only at hn hkids
        · exact bounded_of_kidsBounded h4 (by omega)
            (byLength_bounded (fun n hlt => ih n (by omega)) le_rfl (by omega) rfl hkids)
        · exact bounded_of_kidsBounded h4 (by omega)
            (byCount_bounded (fun n hlt => ih n (by omega)) le_rfl (by omega) rfl hkids)

theorem lt_of_parsePacket_ok {fuel p q : Nat} {r : Packet} (h : parsePacket bs fuel p = .ok (r, q)) : p < q := by
  obtain ⟨hbits, -, -⟩ := parsePacket_bounded bs fuel p q r h
  have := packetCount_pos r
  omega

/-! ## The recursion bound -/

theorem litGroups_ne_outOfFuel {fuel p acc : Nat} (hfuel : bs.length - p + 1 ≤ fuel) :
    litGroups bs fuel p acc ≠ .outOfFuel := by
  induction fuel generalizing p acc with
  | zero => omega
  | succ fuel ih =>
    simp only [litGroups, ne_eq, Ref.bind_eq_outOfFuel, rd_ne_outOfFuel, rd_eq_ok, false_or]
    rintro ⟨_, ⟨h1, rfl⟩, _, ⟨h4, rfl⟩, h⟩
    dsimp only at h1 h4 h
    split at h
    · exact ih (by omega) h
    · cases h

section
variable {N : Nat} (hpacket : ∀ n < N, ∀ p, bs.length - p + 1 ≤ n → parsePacket bs n p ≠ .outOfFuel)
include hpacket

/-- Each subpacket takes one recursion step and at least one of the remaining bits. -/
theorem byLength_ne_outOfFuel {fuel p mark n : Nat} {kids : Packets} (hN : fuel ≤ N)
    (hfuel : bs.length - p + 2 ≤ fuel) :
    byLength bs fuel p mark n kids ≠ .outOfFuel := by
  induction fuel generalizing p kids with
  | zero => omega
  | succ fuel ih =>
    simp only [byLength]
    split
    · simp
    · split
      · simp
      · rw [ne_eq, Ref.bind_eq_outOfFuel]
        rintro (hk | ⟨⟨k, p'⟩, hk, h⟩)
        · exact hpacket fuel (by omega) p (by omega) hk
        · obtain ⟨hbits, hp', -⟩ := parsePacket_bounded bs fuel p p' k hk
          have := packetCount_pos k
          exact ih (by omega) (by omega) h

theorem byCount_ne_outOfFuel {fuel p c : Nat} {kids : Packets} (hN : fuel ≤ N) (hfuel : bs.length - p + 2 ≤ fuel) :
    byCount bs fuel p c kids ≠ .outOfFuel := by
  induction fuel generalizing p kids with
  | zero => omega
  | succ fuel ih =>
    simp only [byCount]
    split
    · simp
    · rw [ne_eq, Ref.bind_eq_outOfFuel]
      rintro (hk | ⟨⟨k, p'⟩, hk, h⟩)
      · exact hpacket fuel (by omega) p (by omega) hk
      · obtain ⟨hbits, hp', -⟩ := parsePacket_bounded bs fuel p p' k hk
        have := packetCount_pos k
        exact ih (by omega) (by omega) h

end

theorem parsePacket_ne_outOfFuel (bs : List Bit) (fuel : Nat) :
    ∀ p, bs.length - p + 1 ≤ fuel → parsePacket bs fuel p ≠ .outOfFuel := by
  induction fuel using Nat.strong_induction_on with
  | _ fuel ih =>
    intro p hfuel
    cases fuel with
    | zero => omega
    | succ fuel =>
      simp only [parsePacket, ne_eq, Ref.bind_eq_outOfFuel, rd_ne_outOfFuel, rd_eq_ok, false_or]
      rintro ⟨_, ⟨hv, rfl⟩, _, ⟨hy, rfl⟩, h⟩
      dsimp only at hv hy h
      split at h
      · simp only [Ref.bind_eq_outOfFuel, reduceCtorEq, and_false, exists_false, or_false] at h
        exact litGroups_ne_outOfFuel (by omega) h
      · simp only [Ref.bind_eq_outOfFuel, rd_ne_outOfFuel, rd_eq_ok, false_or] at h
        obtain ⟨_, ⟨hi, rfl⟩, h⟩ := h
        dsimp only at hi h
        split at h
        all_goals
          simp only [Ref.bind_eq_outOfFuel, rd_ne_outOfFuel, rd_eq_ok, false_or, reduceCtorEq, and_false, exists_false,
            or_false] at h
          obtain ⟨_, ⟨hn, rfl⟩, h⟩ := h
          dsimp only at hn h
        · exact byLength_ne_outOfFuel (fun n hlt => ih n (by omega)) le_rfl (by omega) h
        · exact byCount_ne_outOfFuel (fun n hlt => ih n (by omega)) le_rfl (by omega) h

/-- Settles O53: by strong induction on the recursion bound, with an induction over the groups or the subpackets
inside. -/
theorem referenceParseIsBounded : Obligations.ReferenceParseIsBounded :=
  ⟨fun bs p fuel => parsePacket_ne_outOfFuel bs fuel p, fun bs p fuel => parsePacket_bounded bs fuel p⟩

end Sys2Proof.Machine
end

section
/-! SUPPORT. Runs of the block, and Unit 1 on a whole line: from START the Loading steps leave in BITMEM and LEN what
DECODE gives, or raise its fault (R112, R113). -/

namespace Sys2Proof.Machine

variable {s t u : State}

/-! ## Runs -/

theorem core_run_succ {M : Host.Core} {s t : M.State} {k : Nat} (h : M.step s = .next t) :
    M.run (k + 1) s = M.run k t := by
  rw [Host.Core.run, h]

theorem core_run_succ_next {M : Host.Core} {s t : M.State} {k : Nat} (h : M.run (k + 1) s = .next t) :
    ∃ u, M.step s = .next u ∧ M.run k u = .next t := by
  rw [Host.Core.run] at h
  split at h
  · next u hu => exact ⟨u, hu, h⟩
  · cases h
  · cases h

theorem run_succ {k : Nat} (h : step s = .next t) : run (k + 1) s = run k t := core_run_succ h

/-- A run of at least one step that goes on takes its first step and goes on from there. -/
theorem run_succ_next {k : Nat} (h : run (k + 1) s = .next t) : ∃ u, step s = .next u ∧ run k u = .next t :=
  core_run_succ_next h

theorem run_add {k l : Nat} (h : run k s = .next t) : run (k + l) s = run l t := by
  induction k generalizing s with
  | zero => cases h; rw [Nat.zero_add]
  | succ k ih =>
    obtain ⟨u, hstep, hrun⟩ := run_succ_next h
    rw [Nat.add_right_comm, run_succ hstep, ih hrun]

/-- Some number of steps leads from s to t. -/
def Reaches (s t : State) : Prop := ∃ k, run k s = .next t

theorem Reaches.refl : Reaches s s := ⟨0, rfl⟩

theorem Reaches.trans (h : Reaches s t) (h' : Reaches t u) : Reaches s u := by
  obtain ⟨k, hk⟩ := h
  obtain ⟨l, hl⟩ := h'
  exact ⟨k + l, (run_add hk).trans hl⟩

theorem Reaches.head (h : step s = .next t) (h' : Reaches t u) : Reaches s u := by
  obtain ⟨k, hk⟩ := h'
  exact ⟨k + 1, (run_succ h).trans hk⟩

theorem Reaches.single (h : step s = .next t) : Reaches s t := .head h .refl

/-! ## The bit store of a bit sequence -/

theorem read_memoryFrom (k a : Nat) (bs : List Bit) :
    Memory.read (memoryFrom k bs) a = if k ≤ a then bs[a - k]? else none := by
  induction bs generalizing k with
  | nil => simp [memoryFrom]
  | cons b bs ih =>
    rw [memoryFrom, Memory.read, ih]
    rcases Nat.lt_trichotomy a k with hlt | rfl | hgt
    · rw [if_neg (by omega), if_neg (by omega), if_neg (by omega)]
    · simp
    · rw [if_neg (by omega), if_pos (by omega), if_pos (by omega), show a - k = (a - (k + 1)) + 1 by omega]
      rfl

theorem read_memoryOf (bs : List Bit) (a : Nat) : Memory.read (memoryOf bs) a = bs[a]? := by
  simp [memoryOf, read_memoryFrom]

/-- A field of a stored bit sequence is the slice of the sequence (R62). -/
theorem memRead_memoryOf {bs : List Bit} {p w : Nat} (h : p + w ≤ bs.length) :
    memRead w (memoryOf bs) p = some (fieldOf w ((bs.drop p).take w)) := by
  have hbits : Memory.readBits (memoryOf bs) p w = some ((bs.drop p).take w) := by
    refine Memory.readBits_eq_some.2 ⟨by simp; omega, fun k hk => ?_⟩
    rw [read_memoryOf, List.getElem?_take_of_lt hk, List.getElem?_drop]
  rw [memRead, hbits, Option.map_some]

theorem write_memoryFrom (k : Nat) (bs : List Bit) (b : Bit) :
    Memory.write (memoryFrom k bs) (k + bs.length) b = memoryFrom k (bs ++ [b]) := by
  induction bs generalizing k with
  | nil => rfl
  | cons c bs ih =>
    rw [memoryFrom, Memory.write, if_neg (by omega), if_neg (by simp), List.length_cons,
      show k + (bs.length + 1) = k + 1 + bs.length by omega, ih]
    rfl

/-- Bits written behind a stored sequence extend it. -/
theorem writeBits_memoryOf (bs cs : List Bit) : Memory.writeBits (memoryOf bs) bs.length cs = memoryOf (bs ++ cs) := by
  induction cs generalizing bs with
  | nil => simp [Memory.writeBits]
  | cons c cs ih =>
    have hwrite : Memory.write (memoryOf bs) bs.length c = memoryOf (bs ++ [c]) := by
      simpa [memoryOf] using write_memoryFrom 0 bs c
    have := ih (bs ++ [c])
    rw [Memory.writeBits, hwrite]
    simpa using this

/-! ## Loading -/

@[simp] theorem length_expand (v : Nibble) : (expand v).length = 4 := length_fieldBits v

/-- DECODE gives four bits for each character (R114). -/
theorem length_of_decodeFrom_ok {i : Nat} {cs : List CharCode} {bs : List Bit} (h : decodeFrom i cs = .ok bs) :
    bs.length = 4 * cs.length := by
  induction cs generalizing i bs with
  | nil => cases h; rfl
  | cons c cs ih =>
    simp only [decodeFrom] at h
    split at h
    · cases h
    · split at h
      · cases h
      · next hrest =>
        cases h
        rw [List.length_append, length_expand, ih hrest, List.length_cons]
        omega

/-- The state in Loading after the first characters of a line, n of them, whose bits are bs (R113). -/
def loadingAt (chars : List CharCode) (n : Nat) (bs : List Bit) : State :=
  { started chars with ci := n, bitmem := memoryOf bs }

theorem step_loadingAt (chars : List CharCode) (n : Nat) (bs : List Bit) :
    step (loadingAt chars n bs) = loadingStep (loadingAt chars n bs) := step_eq_sequencer rfl

/-- A Loading step at a digit stores its bits behind the ones before. -/
theorem step_loadingAt_digit {chars : List CharCode} {n : Nat} {bs : List Bit} {c : CharCode} {v : Nibble}
    (hlen : bs.length = 4 * n) (hc : chars[n]? = some c) (hv : hexVal c = some v) :
    step (loadingAt chars n bs) = .next (loadingAt chars (n + 1) (bs ++ expand v)) := by
  have hmem : memWrite (memoryOf bs) (4 * n) v = memoryOf (bs ++ expand v) := by
    rw [memWrite, ← hlen]
    exact writeBits_memoryOf bs (expand v)
  have hinput : (loadingAt chars n bs).input[(loadingAt chars n bs).ci]? = some c := hc
  rw [step_loadingAt, loadingStep, hinput]
  simp only [hv]
  rw [loadingAt, loadingAt, ← hmem]
  rfl

theorem step_loadingAt_invalid {chars : List CharCode} {n : Nat} {bs : List Bit} {c : CharCode}
    (hc : chars[n]? = some c) (hv : hexVal c = none) :
    step (loadingAt chars n bs) = .next (raise (.malformedHex c n) (loadingAt chars n bs)) := by
  have hinput : (loadingAt chars n bs).input[(loadingAt chars n bs).ci]? = some c := hc
  rw [step_loadingAt, loadingStep, hinput]
  simp only [hv]
  rfl

theorem step_loadingAt_end {chars : List CharCode} {bs : List Bit} (hlen : bs.length = 4 * chars.length) :
    step (loadingAt chars chars.length bs) = .next (parserStart chars bs) := by
  have hinput : (loadingAt chars chars.length bs).input[(loadingAt chars chars.length bs).ci]? = none :=
    List.getElem?_eq_none (le_refl chars.length)
  rw [step_loadingAt, loadingStep, hinput, parserStart, hlen]
  rfl

/-- From a line's state after the characters `pre`, the rest decodes: Loading takes one step for each character and one
more, and the parser starts. -/
theorem run_loadingAt_ok {pre cs : List CharCode} {bs bs' : List Bit} (hlen : bs.length = 4 * pre.length)
    (h : decodeFrom pre.length cs = .ok bs') :
    run (cs.length + 1) (loadingAt (pre ++ cs) pre.length bs) = .next (parserStart (pre ++ cs) (bs ++ bs')) := by
  induction cs generalizing pre bs bs' with
  | nil =>
    cases h
    simp only [List.append_nil]
    exact run_succ (step_loadingAt_end hlen)
  | cons c cs ih =>
    simp only [decodeFrom] at h
    split at h
    · cases h
    · next v hv =>
      split at h
      · cases h
      · next bs1 hrest =>
        cases h
        have hnext := ih (pre := pre ++ [c]) (bs := bs ++ expand v) (bs' := bs1) (by simp [hlen]; omega)
          (by simpa using hrest)
        simp only [List.append_assoc, List.length_append, List.length_singleton, List.singleton_append] at hnext
        rw [List.length_cons, run_succ (step_loadingAt_digit hlen (by simp) hv), hnext]

/-- From a line's state after the characters `pre`, the rest does not decode: Loading raises DECODE's fault before the
line ends, and has written nothing but BITMEM and CI. -/
theorem run_loadingAt_error {pre cs : List CharCode} {bs : List Bit} {f : FaultRecord}
    (hlen : bs.length = 4 * pre.length) (h : decodeFrom pre.length cs = .error f) :
    ∃ k n bs', k ≤ cs.length ∧
      run k (loadingAt (pre ++ cs) pre.length bs) = .next (raise f (loadingAt (pre ++ cs) n bs')) := by
  induction cs generalizing pre bs with
  | nil => cases h
  | cons c cs ih =>
    simp only [decodeFrom] at h
    split at h
    · next hv =>
      cases h
      exact ⟨1, _, _, by simp, run_succ (step_loadingAt_invalid (by simp) hv)⟩
    · next v hv =>
      split at h
      · next f' hrest =>
        cases h
        obtain ⟨k, n, bs', hk, hrun⟩ := ih (pre := pre ++ [c]) (bs := bs ++ expand v) (by simp [hlen]; omega)
          (by simpa using hrest)
        simp only [List.append_assoc, List.length_append, List.length_singleton, List.singleton_append] at hrun
        exact ⟨k + 1, n, bs', by simpa using hk, by rw [run_succ (step_loadingAt_digit hlen (by simp) hv), hrun]⟩
      · cases h

theorem reaches_parserStart {line : List CharCode} {bs : List Bit} (h : decodeLine line = .ok bs) :
    Reaches (started line) (parserStart line bs) :=
  ⟨line.length + 1, run_loadingAt_ok (pre := []) (bs := []) rfl h⟩

theorem reaches_loading_fault {line : List CharCode} {f : FaultRecord} (h : decodeLine line = .error f) :
    ∃ t, Reaches (started line) t ∧ t.st = .faulted ∧ t.fault = some f := by
  obtain ⟨k, n, bs, -, hrun⟩ := run_loadingAt_error (pre := []) (bs := []) rfl h
  exact ⟨_, ⟨k, hrun⟩, rfl, rfl⟩

end Sys2Proof.Machine
end

section
/-! SUPPORT. The parser follows the reference function (R136, R149): where PARSE_PACKET returns a packet, the block
completes the same packet at the same position; where it raises, the block raises the same fault. One lemma for each
function of R136, and the outcome of a whole line (R10, R42). -/

namespace Sys2Proof.Machine

variable {bs : List Bit} {s t u : State}

/-! ## Following a computation of the reference function -/

/-- From s the block follows a computation: it reaches a state that the result describes, or the state the fault is
raised into. A computation that ran out of its recursion bound says nothing. -/
def Follows {α : Type} (s : State) (r : Ref α) (post : α → State → Prop) : Prop :=
  match r with
  | .ok a => ∃ t, Reaches s t ∧ post a t
  | .raised f => ∃ t, Reaches s t ∧ t.st = .faulted ∧ t.fault = some f
  | .outOfFuel => True

/-- What a step answers goes on and follows a computation. -/
def OutFollows {α : Type} (o : Out) (r : Ref α) (post : α → State → Prop) : Prop :=
  ∃ t, o = .next t ∧ Follows t r post

section
variable {α β : Type} {r : Ref α} {post post' : α → State → Prop}

theorem Follows.ok {a : α} (h : post a s) : Follows s (.ok a) post := ⟨s, .refl, h⟩

theorem Follows.of_reaches (hreach : Reaches s u) (h : Follows u r post) : Follows s r post := by
  cases r with
  | ok a => obtain ⟨t, ht, hpost⟩ := h; exact ⟨t, hreach.trans ht, hpost⟩
  | raised f => obtain ⟨t, ht, hfault⟩ := h; exact ⟨t, hreach.trans ht, hfault⟩
  | outOfFuel => trivial

theorem OutFollows.step (h : OutFollows (step s) r post) : Follows s r post := by
  obtain ⟨t, hstep, hfollows⟩ := h
  exact hfollows.of_reaches (.single hstep)

theorem Follows.bind {k : α → Ref β} {goal : β → State → Prop} (h : Follows s r post)
    (hk : ∀ a t, r = .ok a → post a t → Follows t (k a) goal) : Follows s (r.bind k) goal := by
  cases r with
  | ok a => obtain ⟨t, ht, hpost⟩ := h; exact (hk a t rfl hpost).of_reaches ht
  | raised f => exact h
  | outOfFuel => trivial

end

/-! ## The parser at work on a bit sequence -/

/-- The block parses the bit sequence bs: it stands in BITMEM, LEN is its length, no host action waits, and the results
are not set yet. -/
structure OnBits (bs : List Bit) (s : State) : Prop where
  request : s.request = none
  bitmem : s.bitmem = memoryOf bs
  len : s.len = bs.length
  vsum : s.vsum = none

/-- The four registers `OnBits` speaks of are the same. -/
theorem OnBits.congr (h : OnBits bs s) (hrequest : t.request = s.request) (hbitmem : t.bitmem = s.bitmem)
    (hlen : t.len = s.len) (hvsum : t.vsum = s.vsum) : OnBits bs t :=
  ⟨hrequest.trans h.request, hbitmem.trans h.bitmem, hlen.trans h.len, hvsum.trans h.vsum⟩

/-- A field read follows RD: both deliver the same field, or raise UnexpectedEof alike (R123, R136). -/
theorem OnBits.field_follows_rd {α : Type} {w : Nat} {k : BitVec w → State → Out} {k' : BitVec w × Nat → Ref α}
    {post : α → State → Prop} (h : OnBits bs s) (hw : 0 < w)
    (hk : ∀ v, OutFollows (k v (s.setPos (s.pos + w))) (k' (v, s.pos + w)) post) :
    OutFollows (field w none s k) ((rd bs s.pos w).bind k') post := by
  have hrem : remaining s = bs.length - s.pos := by rw [remaining, h.len]
  unfold rd
  split
  · next hshort =>
    refine ⟨eofRaised w s, field_short (by omega), eofRaised w s, .refl, rfl, ?_⟩
    rw [eofRaised, raise_fault, hrem]
  · next henough =>
    rw [field_read (by omega) (h.bitmem ▸ memRead_memoryOf (by omega))]
    exact hk _

/-- The block has completed the packet and stands behind it, with the open operators `stack` (R32). -/
structure Completed (bs : List Bit) (stack : List Frame) (a : Packet × Nat) (t : State) : Prop where
  onBits : OnBits bs t
  st : t.st = .done
  stack : t.stack = stack
  ret : t.ret = some a.1
  pos : t.pos = a.2

/-- With an operator open, the completed packet becomes its last subpacket and the frame is tested again (R144). -/
theorem Completed.step_subpacket {f : Frame} {rest : List Frame} {a : Packet × Nat} (h : Completed bs (f :: rest) a t) :
    ∃ u, step t = .next u ∧ OnBits bs u ∧ u.st = resumeState f.mode ∧ u.stack = f.append a.1 :: rest ∧
      u.pos = a.2 := by
  refine ⟨((t.setStack (f.append a.1 :: rest)).setRet none).setSt (resumeState f.mode), ?_,
    h.onBits.congr rfl rfl rfl rfl, rfl, rfl, h.pos⟩
  rw [step_eq_sequencer h.onBits.request, sequencer, h.st]
  simp only [done, h.ret, handOver, h.stack]

/-- With no operator open, the completed packet becomes ROOT (R144). -/
theorem Completed.step_root {a : Packet × Nat} (h : Completed bs [] a t) :
    step t = .next (((t.setRoot (some a.1)).setRet none).setSt .parseOk) := by
  rw [step_eq_sequencer h.onBits.request, sequencer, h.st]
  simp only [done, h.ret, handOver, h.stack]

/-! ## One lemma for each function of R136 -/

/-- A literal's groups: each step folds a group as LIT_GROUPS does (R138). -/
theorem follows_litGroups {v : Version} {y : TypeId} {stack : List Frame} (fuel : Nat) (h : OnBits bs s)
    (hst : s.st = .readingLiteralGroup) (hver : s.ver = v) (htid : s.tid = y) (hstack : s.stack = stack) :
    Follows s (litGroups bs fuel s.pos s.acc) fun a => Completed bs stack (.literal v y a.1, a.2) := by
  induction fuel generalizing s with
  | zero => trivial
  | succ fuel ih =>
    refine OutFollows.step ?_
    rw [step_eq_sequencer h.request, sequencer, hst, litGroups]
    refine h.field_follows_rd (by decide) fun f => ?_
    have h1 : OnBits bs ((s.setPos (s.pos + 1)).setCflag f) := h.congr rfl rfl rfl rfl
    refine h1.field_follows_rd (by decide) fun g => ⟨_, rfl, ?_⟩
    by_cases hf : f = 1
    · rw [foldGroup, if_pos (by simpa [continues] using hf)]
      dsimp only
      rw [if_pos hf]
      exact ih (h1.congr rfl rfl rfl rfl) rfl (by simp [hver]) (by simp [htid]) (by simp [hstack])
    · rw [foldGroup, if_neg (by simpa [continues] using hf)]
      dsimp only
      rw [if_neg hf]
      exact .ok ⟨h1.congr rfl rfl rfl rfl, rfl, by simp [hstack], by simp [hver, htid], by simp⟩

/-- From a packet's start the block follows PARSE_PACKET under this recursion bound. -/
def PacketFollowed (bs : List Bit) (fuel : Nat) : Prop :=
  ∀ s, OnBits bs s → s.st = .readingHeader → Follows s (parsePacket bs fuel s.pos) (Completed bs s.stack)

theorem parsingSubpacketsByLength_eq {f : Frame} {rest : List Frame} (hstack : s.stack = f :: rest)
    (hmark : f.mark ≤ s.pos) :
    parsingSubpacketsByLength s =
      if s.pos - f.mark = f.limit then .next (completeFrame f rest s)
      else if f.limit < s.pos - f.mark then .next (raise (.overconsumedSubpackets f.limit (s.pos - f.mark) s.pos) s)
      else .next (s.setSt .readingHeader) := by
  simp only [parsingSubpacketsByLength, hstack, consumedSince, hmark, if_true]

theorem parsingSubpacketsByCount_eq {f : Frame} {rest : List Frame} (hstack : s.stack = f :: rest) :
    parsingSubpacketsByCount s =
      if f.kids.length = f.limit then .next (completeFrame f rest s) else .next (s.setSt .readingHeader) := by
  simp only [parsingSubpacketsByCount, hstack]

theorem completed_completeFrame {f : Frame} {rest : List Frame} (h : OnBits bs s) :
    Completed bs rest (.operator f.ver f.tid f.kids, s.pos) (completeFrame f rest s) :=
  ⟨h.congr rfl rfl rfl rfl, rfl, rfl, rfl, rfl⟩

section
variable {N : Nat} (hpacket : ∀ n < N, PacketFollowed bs n)
include hpacket

/-- Subpackets under a declared length: the frame on top holds BY_LENGTH's arguments (R141). -/
theorem follows_byLength {fuel : Nat} {f : Frame} {rest : List Frame} (hN : fuel ≤ N) (h : OnBits bs s)
    (hst : s.st = .parsingSubpacketsByLength) (hstack : s.stack = f :: rest) (hmode : f.mode = .byLength)
    (hmark : f.mark ≤ s.pos) :
    Follows s (byLength bs fuel s.pos f.mark f.limit f.kids) fun a =>
      Completed bs rest (.operator f.ver f.tid a.1, a.2) := by
  induction fuel generalizing s f with
  | zero => trivial
  | succ fuel ih =>
    refine OutFollows.step ?_
    rw [step_eq_sequencer h.request, sequencer, hst, byLength]
    dsimp only
    rw [parsingSubpacketsByLength_eq hstack hmark]
    split_ifs with hdone hover
    · exact ⟨_, rfl, .ok (completed_completeFrame h)⟩
    · exact ⟨_, rfl, _, .refl, rfl, rfl⟩
    · have hnext := hpacket fuel (by omega) (s.setSt .readingHeader) (h.congr rfl rfl rfl rfl) rfl
      refine ⟨_, rfl, hnext.bind fun a t hok hcompleted => ?_⟩
      have hbits : s.pos < a.2 := lt_of_parsePacket_ok hok
      rw [State.setSt_stack, hstack] at hcompleted
      obtain ⟨u, hstep, hu, hust, hustack, hupos⟩ := hcompleted.step_subpacket
      have hrest := ih (by omega) hu (by rw [hust, hmode]; rfl) hustack hmode (by rw [hupos]; exact hmark.trans hbits.le)
      rw [hupos] at hrest
      exact hrest.of_reaches (.single hstep)

/-- Subpackets under a declared count: the frame on top holds BY_COUNT's arguments (R143). -/
theorem follows_byCount {fuel : Nat} {f : Frame} {rest : List Frame} (hN : fuel ≤ N) (h : OnBits bs s)
    (hst : s.st = .parsingSubpacketsByCount) (hstack : s.stack = f :: rest) (hmode : f.mode = .byCount) :
    Follows s (byCount bs fuel s.pos f.limit f.kids) fun a => Completed bs rest (.operator f.ver f.tid a.1, a.2) := by
  induction fuel generalizing s f with
  | zero => trivial
  | succ fuel ih =>
    refine OutFollows.step ?_
    rw [step_eq_sequencer h.request, sequencer, hst, byCount]
    dsimp only
    rw [parsingSubpacketsByCount_eq hstack]
    split_ifs with hdone
    · exact ⟨_, rfl, .ok (completed_completeFrame h)⟩
    · have hnext := hpacket fuel (by omega) (s.setSt .readingHeader) (h.congr rfl rfl rfl rfl) rfl
      refine ⟨_, rfl, hnext.bind fun a t hok hcompleted => ?_⟩
      rw [State.setSt_stack, hstack] at hcompleted
      obtain ⟨u, hstep, hu, hust, hustack, hupos⟩ := hcompleted.step_subpacket
      have hrest := ih (by omega) hu (by rw [hust, hmode]; rfl) hustack hmode
      rw [hupos] at hrest
      exact hrest.of_reaches (.single hstep)

/-- An operator with a declared length, from that field on (R140). -/
theorem follows_totalLength {fuel : Nat} (hN : fuel ≤ N) (h : OnBits bs s) (hst : s.st = .readingTotalLengthPrefix) :
    Follows s
      ((rd bs s.pos 15).bind fun n => (byLength bs fuel n.2 n.2 n.1.toNat .nil).bind fun a =>
        .ok (.operator s.ver s.tid a.1, a.2))
      (Completed bs s.stack) := by
  refine OutFollows.step ?_
  rw [step_eq_sequencer h.request, sequencer, hst]
  refine h.field_follows_rd (by decide) fun n => ⟨afterOpen .byLength 15 n.toNat s, rfl, ?_⟩
  refine .bind (follows_byLength (s := afterOpen .byLength 15 n.toNat s) hpacket hN (h.congr rfl rfl rfl rfl) rfl rfl rfl
    le_rfl) ?_
  exact fun a t _ hcompleted => .ok hcompleted

/-- An operator with a declared count, from that field on (R142). -/
theorem follows_subpacketCount {fuel : Nat} (hN : fuel ≤ N) (h : OnBits bs s) (hst : s.st = .readingSubpacketCount) :
    Follows s
      ((rd bs s.pos 11).bind fun c => (byCount bs fuel c.2 c.1.toNat .nil).bind fun a =>
        .ok (.operator s.ver s.tid a.1, a.2))
      (Completed bs s.stack) := by
  refine OutFollows.step ?_
  rw [step_eq_sequencer h.request, sequencer, hst]
  refine h.field_follows_rd (by decide) fun c => ⟨afterOpen .byCount 11 c.toNat s, rfl, ?_⟩
  refine .bind (follows_byCount (s := afterOpen .byCount 11 c.toNat s) hpacket hN (h.congr rfl rfl rfl rfl) rfl rfl
    rfl) ?_
  exact fun a t _ hcompleted => .ok hcompleted

/-- An operator from the flag on that selects its form (R139). -/
theorem follows_lengthType {fuel : Nat} (hN : fuel ≤ N) (h : OnBits bs s) (hst : s.st = .readingLengthTypeFlag) :
    Follows s
      ((rd bs s.pos 1).bind fun i =>
        if i.1 = 0 then
          (rd bs i.2 15).bind fun n => (byLength bs fuel n.2 n.2 n.1.toNat .nil).bind fun a =>
            .ok (.operator s.ver s.tid a.1, a.2)
        else
          (rd bs i.2 11).bind fun c => (byCount bs fuel c.2 c.1.toNat .nil).bind fun a =>
            .ok (.operator s.ver s.tid a.1, a.2))
      (Completed bs s.stack) := by
  refine OutFollows.step ?_
  rw [step_eq_sequencer h.request, sequencer, hst]
  refine h.field_follows_rd (by decide) fun i => ⟨_, rfl, ?_⟩
  dsimp only
  split_ifs with hi
  · exact follows_totalLength hpacket hN (h.congr rfl rfl rfl rfl) (if_pos hi)
  · exact follows_subpacketCount hpacket hN (h.congr rfl rfl rfl rfl) (if_neg hi)

/-- A packet from its header on: the type selects a literal or an operator (R137). -/
theorem packetFollowed_succ {fuel : Nat} (hN : fuel ≤ N) : PacketFollowed bs (fuel + 1) := by
  intro s h hst
  refine OutFollows.step ?_
  rw [step_eq_sequencer h.request, sequencer, hst, parsePacket]
  refine h.field_follows_rd (by decide) fun v => ?_
  have h1 : OnBits bs ((s.setPos (s.pos + 3)).setVer v) := h.congr rfl rfl rfl rfl
  refine h1.field_follows_rd (by decide) fun y => ?_
  dsimp only
  split_ifs with hy
  · refine ⟨_, rfl, .bind (follows_litGroups (v := v) (y := y) (stack := s.stack) fuel (h1.congr rfl rfl rfl rfl) rfl
      (by simp) (by simp) (by simp)) ?_⟩
    exact fun a t _ hcompleted => .ok hcompleted
  · refine ⟨_, rfl, ?_⟩
    exact follows_lengthType hpacket hN (h1.congr rfl rfl rfl rfl) rfl

end

/-- The block follows PARSE_PACKET under every recursion bound. -/
theorem packetFollowed (bs : List Bit) (fuel : Nat) : PacketFollowed bs fuel := by
  induction fuel using Nat.strong_induction_on with
  | _ fuel ih =>
    cases fuel with
    | zero => intro s _ _; trivial
    | succ fuel => exact packetFollowed_succ (fun n hn => ih n (by omega)) le_rfl

/-! ## The outcome of a line -/

theorem onBits_parserStart (line : List CharCode) (bs : List Bit) : OnBits bs (parserStart line bs) :=
  ⟨rfl, rfl, rfl, rfl⟩

/-- The parser's run on a decoded line follows PARSE_PACKET(0) (R149). -/
theorem follows_parserStart (line : List CharCode) (bs : List Bit) :
    Follows (parserStart line bs) (parsePacket bs (enoughFuel bs) 0) (Completed bs []) :=
  packetFollowed bs (enoughFuel bs) _ (onBits_parserStart line bs) rfl

theorem parsePacket_enoughFuel_ne_outOfFuel (bs : List Bit) : parsePacket bs (enoughFuel bs) 0 ≠ .outOfFuel :=
  parsePacket_ne_outOfFuel bs (enoughFuel bs) 0 le_rfl

@[simp] theorem setResults_st (p : Packet) : (setResults p s).st = s.st := by
  unfold setResults
  split <;> rfl

@[simp] theorem setResults_vsum (p : Packet) : (setResults p s).vsum = some (vsumOf p) := by
  unfold setResults
  split <;> rfl

@[simp] theorem setResults_root (p : Packet) : (setResults p s).root = s.root := by
  unfold setResults
  split <;> rfl

@[simp] theorem setResults_pos (p : Packet) : (setResults p s).pos = s.pos := by
  unfold setResults
  split <;> rfl

@[simp] theorem setResults_len (p : Packet) : (setResults p s).len = s.len := by
  unfold setResults
  split <;> rfl

@[simp] theorem resultRegisters_setResults (p : Packet) : resultRegisters (setResults p s) = some (valueOf p) := by
  unfold setResults
  cases valueOf p <;> rfl

/-- The back end's one step (R38, R157). -/
theorem step_backEnd {p : Packet} (hrequest : s.request = none) (hst : s.st = .parseOk) (hvsum : s.vsum = none)
    (hroot : s.root = some p) : step s = .next (setResults p s) := by
  rw [step_eq_sequencer hrequest, sequencer, hst]
  simp [backEnd, hvsum, hroot]

theorem halted_setResults {p : Packet} (hst : s.st = .parseOk) : halted (setResults p s) = true := by
  simp [halted, hst]

/-- Once the back end has set the results, the host sees the tree, both results, POS and LEN (R42). -/
theorem hostView_setResults {p : Packet} (hst : s.st = .parseOk) (hroot : s.root = some p) :
    hostView (setResults p s) = .parsed p (vsumOf p) (valueOf p) s.pos s.len := by
  simp [hostView, hst, hroot]

theorem halted_of_faulted (hst : s.st = .faulted) : halted s = true := by simp [halted, hst]

theorem hostView_of_faulted {f : FaultRecord} (hst : s.st = .faulted) (hfault : s.fault = some f) :
    hostView s = .fault f := by
  simp [hostView, hst, hfault]

/-- A completed root packet goes to ROOT, the back end sets both results, and the run has halted (R144, R157). -/
theorem Completed.reaches_outcome {a : Packet × Nat} (h : Completed bs [] a s) :
    ∃ t, Reaches s t ∧ halted t = true ∧ hostView t = .parsed a.1 (vsumOf a.1) (valueOf a.1) a.2 bs.length := by
  have hback := step_backEnd (s := ((s.setRoot (some a.1)).setRet none).setSt .parseOk) h.onBits.request rfl
    h.onBits.vsum rfl
  refine ⟨_, .head h.step_root (.single hback), halted_setResults rfl, ?_⟩
  rw [hostView_setResults rfl rfl]
  simp [h.pos, h.onBits.len]

/-- Settles O60: Loading follows DECODE, the parser follows PARSE_PACKET, which its recursion bound never stops, and the
back end sets the results of the tree. -/
theorem everyLineEndsWithItsOutcome : Obligations.EveryLineEndsWithItsOutcome := by
  intro line
  cases hdecode : decodeLine line with
  | error f =>
    obtain ⟨t, ⟨k, hrun⟩, hst, hfault⟩ := reaches_loading_fault hdecode
    have hline : parseLine line = .raised f := by simp [parseLine, hdecode]
    exact ⟨k, t, hrun, halted_of_faulted hst, .inr ⟨f, hline, hostView_of_faulted hst hfault⟩⟩
  | ok bs =>
    have hline : parseLine line = parsePacket bs (enoughFuel bs) 0 := by simp [parseLine, hdecode]
    have hlen : bs.length = 4 * line.length := length_of_decodeFrom_ok hdecode
    have hstart := reaches_parserStart hdecode
    have hfollows := follows_parserStart line bs
    cases hparse : parsePacket bs (enoughFuel bs) 0 with
    | ok a =>
      rw [hparse] at hfollows
      obtain ⟨u, hu, hcompleted⟩ := hfollows
      obtain ⟨t, ht, hhalted, hview⟩ := hcompleted.reaches_outcome
      obtain ⟨k, hrun⟩ := hstart.trans (hu.trans ht)
      exact ⟨k, t, hrun, hhalted, .inl ⟨a.1, a.2, hline.trans hparse, hlen ▸ hview⟩⟩
    | raised f =>
      rw [hparse] at hfollows
      obtain ⟨t, ht, hst, hfault⟩ := hfollows
      obtain ⟨k, hrun⟩ := hstart.trans ht
      exact ⟨k, t, hrun, halted_of_faulted hst, .inr ⟨f, hline.trans hparse, hostView_of_faulted hst hfault⟩⟩
    | outOfFuel => exact absurd hparse (parsePacket_enoughFuel_ne_outOfFuel bs)

end Sys2Proof.Machine
end

section
/-! SUPPORT. Everything a state rule can do (R113, R137 to R144, R157), said once as one constructor per outcome: the
state it leaves and the guards the invariants need. An invariant is kept by every step when each outcome keeps it. -/

namespace Sys2Proof.Machine

variable {s t : State}

/-- The states that read a field from the cursor. -/
def readsField (x : ParserState) : Prop :=
  x = .readingHeader ∨ x = .readingLiteralGroup ∨ x = .readingLengthTypeFlag ∨ x = .readingTotalLengthPrefix ∨
    x = .readingSubpacketCount

/-- The state that reads the limit of a frame, by its mode (R139). -/
def prefixState : Mode → ParserState
  | .byLength => .readingTotalLengthPrefix
  | .byCount => .readingSubpacketCount

/-- The outcomes of the state rule of ST: every t the rule takes s to is one of these (`stateRule_of_sequencer`). -/
inductive StateRule (s : State) : State → Prop
  /-- All characters are taken (R113, R120). -/
  | endOfLine (hst : s.st = .loading) (hend : s.input[s.ci]? = none) : StateRule s (endOfLine s)
  /-- The next character is no digit (R112, R201). -/
  | malformedHex {c : CharCode} (hst : s.st = .loading) (hc : s.input[s.ci]? = some c) (hv : hexVal c = none) :
    StateRule s (raise (.malformedHex c s.ci) s)
  /-- One digit is taken (R113). -/
  | digit {c : CharCode} {v : Nibble} (hst : s.st = .loading) (hc : s.input[s.ci]? = some c) (hv : hexVal c = some v) :
    StateRule s (takeDigit v s)
  /-- The bits run out (R123); the fields the rule has read before that may have moved POS to p and have set VER and
  CFLAG. -/
  | unexpectedEof {w p : Nat} {v : Version} {f : Flag} (hst : readsField s.st) (hpos : s.pos ≤ p)
    (hroom : p - s.pos ≤ remaining s) : StateRule s (eofRaised w (((s.setPos p).setVer v).setCflag f))
  /-- A literal's header is read (R137). -/
  | literalHeader {v : Version} (hst : s.st = .readingHeader) (hroom : 6 ≤ remaining s) :
    StateRule s
      (((((s.setPos (s.pos + 6)).setVer v).setTid 4).setAcc 0).setSt .readingLiteralGroup)
  /-- An operator's header is read (R137). -/
  | operatorHeader {v : Version} {y : TypeId} (hst : s.st = .readingHeader) (hroom : 6 ≤ remaining s) (hy : y ≠ 4) :
    StateRule s ((((s.setPos (s.pos + 6)).setVer v).setTid y).setSt .readingLengthTypeFlag)
  /-- A literal's group is read and another follows (R138). -/
  | group {f : Flag} {g : Nibble} (hst : s.st = .readingLiteralGroup) (hroom : 5 ≤ remaining s) :
    StateRule s
      ((((s.setPos (s.pos + 5)).setCflag f).setAcc (s.acc * 16 + g.toNat)).setSt .readingLiteralGroup)
  /-- A literal's last group is read (R138). -/
  | lastGroup {f : Flag} {g : Nibble} (hst : s.st = .readingLiteralGroup) (hroom : 5 ≤ remaining s) :
    StateRule s
      (((((s.setPos (s.pos + 5)).setCflag f).setAcc (s.acc * 16 + g.toNat)).setRet
        (some (.literal s.ver s.tid (s.acc * 16 + g.toNat)))).setSt .done)
  /-- The flag that selects an operator's form is read (R139). -/
  | lengthType {i : Flag} (hst : s.st = .readingLengthTypeFlag) (hroom : 1 ≤ remaining s) :
    StateRule s (((s.setPos (s.pos + 1)).setLtid i).setSt (afterLengthType i))
  /-- The limit of an operator's frame is read and the frame is opened (R140, R142). -/
  | opened {m : Mode} {w n : Nat} (hst : s.st = prefixState m) (hw : 0 < w) (hroom : w ≤ remaining s) :
    StateRule s (afterOpen m w n s)
  /-- The top frame has all its subpackets (R141, R143). -/
  | completed {m : Mode} {f : Frame} {rest : List Frame} (hst : s.st = resumeState m) (hstack : s.stack = f :: rest) :
    StateRule s (completeFrame f rest s)
  /-- The top frame's subpackets took more bits than declared (R141, R203). -/
  | overconsumed {f : Frame} {rest : List Frame} (hst : s.st = .parsingSubpacketsByLength)
    (hstack : s.stack = f :: rest) : StateRule s (raise (.overconsumedSubpackets f.limit (s.pos - f.mark) s.pos) s)
  /-- The top frame waits for a further subpacket (R141, R143). -/
  | nextSubpacket {m : Mode} {f : Frame} {rest : List Frame} (hst : s.st = resumeState m)
    (hstack : s.stack = f :: rest) (hcount : m = .byCount → f.kids.length ≠ f.limit) :
    StateRule s (s.setSt .readingHeader)
  /-- The completed packet is the root (R144). -/
  | root {p : Packet} (hst : s.st = .done) (hret : s.ret = some p) (hstack : s.stack = []) :
    StateRule s (((s.setRoot (some p)).setRet none).setSt .parseOk)
  /-- The completed packet is a subpacket of the top frame (R144). -/
  | subpacket {p : Packet} {f : Frame} {rest : List Frame} (hst : s.st = .done) (hret : s.ret = some p)
    (hstack : s.stack = f :: rest) :
    StateRule s (((s.setStack (f.append p :: rest)).setRet none).setSt (resumeState f.mode))
  /-- The back end sets the results (R38, R157). -/
  | results {p : Packet} (hst : s.st = .parseOk) (hvsum : s.vsum = none) (hroot : s.root = some p) :
    StateRule s (setResults p s)

/-! ## Each state rule, by its own lemma -/

/-- The bits run out at a rule's first field. -/
theorem stateRule_eofRaised {w : Nat} (hst : readsField s.st) : StateRule s (eofRaised w s) :=
  .unexpectedEof (p := s.pos) (v := s.ver) (f := s.cflag) hst le_rfl (by omega)

theorem stateRule_loadingStep (hst : s.st = .loading) (h : loadingStep s = .next t) : StateRule s t := by
  obtain ⟨hend, rfl⟩ | ⟨c, hc, ⟨hv, rfl⟩ | ⟨v, hv, rfl⟩⟩ := loadingStep_next h
  · exact .endOfLine hst hend
  · exact .malformedHex hst hc hv
  · exact .digit hst hc hv

theorem stateRule_readingHeader (hst : s.st = .readingHeader) (h : readingHeader none none s = .next t) :
    StateRule s t := by
  have hreads : readsField s.st := .inl hst
  obtain ⟨-, rfl⟩ | ⟨hroom, v, -, ⟨-, rfl⟩ | ⟨hroom', y, -, rfl⟩⟩ := readingHeader_next h
  · exact stateRule_eofRaised hreads
  · exact .unexpectedEof (p := s.pos + 3) (v := v) (f := s.cflag) hreads (by omega) (by omega)
  · unfold afterHeader
    split
    · next hy => exact hy ▸ .literalHeader hst hroom'
    · next hy => exact .operatorHeader hst hroom' hy

theorem stateRule_readingLiteralGroup (hst : s.st = .readingLiteralGroup)
    (h : readingLiteralGroup none none s = .next t) : StateRule s t := by
  have hreads : readsField s.st := .inr (.inl hst)
  obtain ⟨-, rfl⟩ | ⟨hroom, f, -, ⟨-, rfl⟩ | ⟨hroom', g, -, rfl⟩⟩ := readingLiteralGroup_next h
  · exact stateRule_eofRaised hreads
  · exact .unexpectedEof (p := s.pos + 1) (v := s.ver) (f := f) hreads (by omega) (by omega)
  · unfold foldGroup
    split
    · exact .group hst hroom'
    · exact .lastGroup hst hroom'

theorem stateRule_readingLengthTypeFlag (hst : s.st = .readingLengthTypeFlag)
    (h : readingLengthTypeFlag none s = .next t) : StateRule s t := by
  obtain ⟨-, rfl⟩ | ⟨hroom, i, -, rfl⟩ := readingLengthTypeFlag_next h
  · exact stateRule_eofRaised (.inr (.inr (.inl hst)))
  · exact .lengthType hst hroom

theorem stateRule_readingTotalLengthPrefix (hst : s.st = .readingTotalLengthPrefix)
    (h : readingTotalLengthPrefix none s = .next t) : StateRule s t := by
  obtain ⟨-, rfl⟩ | ⟨hroom, n, -, rfl⟩ := readingTotalLengthPrefix_next h
  · exact stateRule_eofRaised (.inr (.inr (.inr (.inl hst))))
  · exact .opened (m := .byLength) hst (by decide) hroom

theorem stateRule_readingSubpacketCount (hst : s.st = .readingSubpacketCount)
    (h : readingSubpacketCount none s = .next t) : StateRule s t := by
  obtain ⟨-, rfl⟩ | ⟨hroom, c, -, rfl⟩ := readingSubpacketCount_next h
  · exact stateRule_eofRaised (.inr (.inr (.inr (.inr hst))))
  · exact .opened (m := .byCount) hst (by decide) hroom

theorem stateRule_parsingSubpacketsByLength (hst : s.st = .parsingSubpacketsByLength)
    (h : parsingSubpacketsByLength s = .next t) : StateRule s t := by
  obtain ⟨f, rest, hstack, -, ⟨-, rfl⟩ | ⟨-, rfl⟩ | ⟨-, rfl⟩⟩ := parsingSubpacketsByLength_next h
  · exact .completed (m := .byLength) hst hstack
  · exact .overconsumed hst hstack
  · exact .nextSubpacket (m := .byLength) hst hstack (by simp)

theorem stateRule_parsingSubpacketsByCount (hst : s.st = .parsingSubpacketsByCount)
    (h : parsingSubpacketsByCount s = .next t) : StateRule s t := by
  obtain ⟨f, rest, hstack, ⟨-, rfl⟩ | ⟨hcount, rfl⟩⟩ := parsingSubpacketsByCount_next h
  · exact .completed (m := .byCount) hst hstack
  · exact .nextSubpacket (m := .byCount) hst hstack fun _ => hcount

theorem stateRule_done (hst : s.st = .done) (h : done s = .next t) : StateRule s t := by
  obtain ⟨p, hret, rfl⟩ := done_next h
  unfold handOver
  split
  · next hstack => exact .root hst hret hstack
  · next f rest hstack => exact .subpacket hst hret hstack

theorem stateRule_backEnd (hst : s.st = .parseOk) (h : backEnd s = .next t) : StateRule s t := by
  obtain ⟨hvsum, p, hroot, rfl⟩ := backEnd_next h
  exact .results hst hvsum hroot

/-- Everything a state rule can do. -/
theorem stateRule_of_sequencer (h : sequencer s = .next t) : StateRule s t := by
  unfold sequencer at h
  cases hst : s.st <;> simp only [hst] at h
  case idle | faulted => cases h
  case loading => exact stateRule_loadingStep hst h
  case readingHeader => exact stateRule_readingHeader hst h
  case readingLiteralGroup => exact stateRule_readingLiteralGroup hst h
  case readingLengthTypeFlag => exact stateRule_readingLengthTypeFlag hst h
  case readingTotalLengthPrefix => exact stateRule_readingTotalLengthPrefix hst h
  case parsingSubpacketsByLength => exact stateRule_parsingSubpacketsByLength hst h
  case readingSubpacketCount => exact stateRule_readingSubpacketCount hst h
  case parsingSubpacketsByCount => exact stateRule_parsingSubpacketsByCount hst h
  case done => exact stateRule_done hst h
  case parseOk => exact stateRule_backEnd hst h

/-- Without a host action a step is an outcome of the state rule. -/
theorem stateRule_of_step (hrequest : s.request = none) (h : step s = .next t) : StateRule s t :=
  stateRule_of_sequencer (step_eq_sequencer hrequest ▸ h)

/-- What RESET and START establish and every state rule keeps, every step keeps. -/
theorem step_keeps {P : State → Prop} (hreset : P State.reset) (hstarted : ∀ line, P (started line))
    (hrule : ∀ {s t}, P s → StateRule s t → P t) (h : P s) (hstep : step s = .next t) : P t := by
  obtain rfl | ⟨line, rfl⟩ | ⟨-, hseq⟩ := step_next hstep
  · exact hreset
  · exact hstarted line
  · exact hrule h (stateRule_of_sequencer hseq)

end Sys2Proof.Machine
end

section
/-! SUPPORT. The registers a parser step never writes (R25, R127, R236, R237), and the invariants of the bit store and of
the result registers (R23, R24, R32, R35, R37, R38, R61), each kept by every outcome of the state rules. -/

namespace Sys2Proof.Machine

variable {s t : State}

/-! ## What the back end leaves unchanged -/

@[simp] theorem setResults_input (p : Packet) : (setResults p s).input = s.input := by
  unfold setResults
  split <;> rfl

@[simp] theorem setResults_ci (p : Packet) : (setResults p s).ci = s.ci := by
  unfold setResults
  split <;> rfl

@[simp] theorem setResults_bitmem (p : Packet) : (setResults p s).bitmem = s.bitmem := by
  unfold setResults
  split <;> rfl

@[simp] theorem setResults_stack (p : Packet) : (setResults p s).stack = s.stack := by
  unfold setResults
  split <;> rfl

@[simp] theorem setResults_ret (p : Packet) : (setResults p s).ret = s.ret := by
  unfold setResults
  split <;> rfl

@[simp] theorem setResults_fault (p : Packet) : (setResults p s).fault = s.fault := by
  unfold setResults
  split <;> rfl

/-- The results depend on the tree alone, so setting them twice is setting them once. -/
@[simp] theorem setResults_setResults (p : Packet) : setResults p (setResults p s) = setResults p s := by
  unfold setResults
  cases valueOf p <;> rfl

/-! ## What a rule leaves unchanged -/

/-- Outside Loading no rule writes the line, CI, BITMEM or LEN (R236). -/
theorem StateRule.store_eq (h : StateRule s t) (hst : s.st ≠ .loading) :
    t.input = s.input ∧ t.ci = s.ci ∧ t.bitmem = s.bitmem ∧ t.len = s.len := by
  cases h
  case endOfLine h0 _ | malformedHex h0 _ _ | digit h0 _ _ => exact absurd h0 hst
  case results => simp
  all_goals exact ⟨rfl, rfl, rfl, rfl⟩

/-- Outside Loading the cursor never goes back (R25, R127). -/
theorem StateRule.pos_le (h : StateRule s t) (hst : s.st ≠ .loading) : s.pos ≤ t.pos := by
  cases h
  case endOfLine h0 _ => exact absurd h0 hst
  case unexpectedEof hpos _ => exact hpos
  case results => simp
  case literalHeader | operatorHeader | group | lastGroup | lengthType | opened => exact Nat.le_add_right _ _
  all_goals exact le_rfl

/-- ROOT is written in Done only (R35). -/
theorem StateRule.root_eq (h : StateRule s t) (hst : s.st ≠ .done) : t.root = s.root := by
  cases h
  case root h0 _ _ => exact absurd h0 hst
  case results => simp
  all_goals rfl

/-- Settles O36: in each outcome of the state rules but Loading's, the registers named are the same, and POS is the same
or further on. -/
theorem onlyTheCursorMovesForward : Obligations.OnlyTheCursorMovesForward := by
  intro s t hrequest hst hstep
  have hrule := stateRule_of_step hrequest hstep
  obtain ⟨hinput, hci, hbitmem, hlen⟩ := hrule.store_eq hst
  exact ⟨hinput, hci, hbitmem, hlen, hrule.pos_le hst, hrule.root_eq⟩

/-! ## The bit store -/

/-- BITMEM is written by the digits of Loading alone. -/
theorem StateRule.bitmem_eq (h : StateRule s t) : t.bitmem = s.bitmem ∨ ∃ v : Nibble, t = takeDigit v s := by
  cases h
  case digit v _ _ _ => exact .inr ⟨v, rfl⟩
  case results => exact .inl (setResults_bitmem _)
  all_goals exact .inl rfl

/-- Settles O49: the only write to BITMEM is MemWrite, which keeps the canonical form; RESET and START empty it. -/
theorem bitStoreStaysCanonical : Obligations.BitStoreStaysCanonical := by
  refine ⟨rfl, fun s t => step_keeps (P := fun s => Memory.wf s.bitmem = true) rfl (fun _ => rfl) ?_⟩
  intro s t h hrule
  obtain hsame | ⟨v, rfl⟩ := hrule.bitmem_eq
  · rwa [hsame]
  · exact wf_memWrite _ _ v h

/-- DECODE of one more digit: its four bits behind those of the characters before (R112). -/
theorem decodeFrom_snoc {i : Nat} {cs : List CharCode} {bs : List Bit} {c : CharCode} {v : Nibble}
    (h : decodeFrom i cs = .ok bs) (hv : hexVal c = some v) : decodeFrom i (cs ++ [c]) = .ok (bs ++ expand v) := by
  induction cs generalizing i bs with
  | nil =>
    cases h
    simp [decodeFrom, hv]
  | cons d cs ih =>
    simp only [decodeFrom] at h
    split at h
    · cases h
    · next u hu =>
      split at h
      · cases h
      · next bs' hrest =>
        cases h
        simp [decodeFrom, hu, ih hrest]

theorem storeInv_digit {c : CharCode} {v : Nibble} (hst : s.st = .loading) (hc : s.input[s.ci]? = some c)
    (hv : hexVal c = some v) (h : StoreInv s) : StoreInv (takeDigit v s) := by
  obtain ⟨hindex, ⟨bs, hdecode, hbitmem⟩, -⟩ := h
  obtain ⟨hlt, -⟩ := List.getElem?_eq_some_iff.1 hc
  have hlen : 4 * s.ci = bs.length := by simp [length_of_decodeFrom_ok hdecode, Nat.min_eq_left hindex]
  refine ⟨hlt, ⟨bs ++ expand v, ?_, ?_⟩, ?_⟩
  · have htake : s.input.take (s.ci + 1) = s.input.take s.ci ++ [c] := by simp [List.take_add_one, hc]
    exact htake ▸ decodeFrom_snoc hdecode hv
  · change memWrite s.bitmem (4 * s.ci) v = _
    rw [hbitmem, hlen]
    exact writeBits_memoryOf bs (expand v)
  · simp [takeDigit, hst, parsing]

/-- At the end of the line CI is its length, and LEN takes four times that (R24, R113). -/
theorem storeInv_endOfLine (hend : s.input[s.ci]? = none) (h : StoreInv s) : StoreInv (endOfLine s) := by
  have hci : s.ci = s.input.length := Nat.le_antisymm h.index (List.getElem?_eq_none_iff.1 hend)
  exact ⟨h.index, h.bits, fun _ => ⟨hci, congrArg (4 * ·) hci⟩⟩

/-- A rule outside Loading acts in the parser or in ParseOk. -/
theorem StateRule.parsing_or_parseOk (h : StateRule s t) (hst : s.st ≠ .loading) :
    parsing s.st = true ∨ s.st = .parseOk := by
  cases h
  case endOfLine h0 _ | malformedHex h0 _ _ | digit h0 _ _ => exact absurd h0 hst
  case results h0 _ _ => exact .inr h0
  case unexpectedEof h0 _ _ => rcases h0 with h0 | h0 | h0 | h0 | h0 <;> simp [h0, parsing]
  case opened m _ _ h0 _ _ => cases m <;> simp [h0, prefixState, parsing]
  case completed m _ _ h0 _ | nextSubpacket m _ _ h0 _ _ => cases m <;> simp [h0, resumeState, parsing]
  all_goals simp [*, parsing]

theorem StoreInv.of_rule (h : StoreInv s) (hrule : StateRule s t) : StoreInv t := by
  by_cases hst : s.st = .loading
  · cases hrule
    case endOfLine _ hend => exact storeInv_endOfLine hend h
    case malformedHex => exact ⟨h.index, h.bits, by simp [parsing]⟩
    case digit _ hc hv => exact storeInv_digit hst hc hv h
    case unexpectedEof h0 _ _ => simp [hst, readsField] at h0
    case opened m _ _ h0 _ _ => cases m <;> simp [hst, prefixState] at h0
    case completed m _ _ h0 _ | nextSubpacket m _ _ h0 _ _ => cases m <;> simp [hst, resumeState] at h0
    all_goals simp_all
  · obtain ⟨hinput, hci, hbitmem, hlen⟩ := hrule.store_eq hst
    refine ⟨?_, ?_, fun _ => ?_⟩
    · rw [hinput, hci]; exact h.index
    · rw [hinput, hci, hbitmem]; exact h.bits
    · rw [hinput, hci, hlen]; exact h.complete (hrule.parsing_or_parseOk hst)

theorem storeInv_reset : StoreInv State.reset := ⟨le_rfl, ⟨[], rfl, rfl⟩, by simp [State.reset, parsing]⟩

theorem storeInv_started (line : List CharCode) : StoreInv (started line) :=
  ⟨Nat.zero_le _, ⟨[], rfl, rfl⟩, by simp [started, parsing]⟩

/-- Settles O46: each digit appends its bits to the store, the end of the line fixes LEN, and no other step writes
either. -/
theorem storeInvariantIsKept : Obligations.StoreInvariantIsKept :=
  fun _ _ => step_keeps storeInv_reset storeInv_started StoreInv.of_rule

/-! ## The result registers -/

/-- RET, ROOT, FAULT, VSUM, VALUE and EFAULT together. -/
def outcomeRegisters (s : State) :
    Option Packet × Option Packet × Option FaultRecord × Option Nat × Option Nat × Option FaultRecord :=
  (s.ret, s.root, s.fault, s.vsum, s.value, s.efault)

/-- None of the outcome registers is set. -/
def NoOutcome (s : State) : Prop := outcomeRegisters s = (none, none, none, none, none, none)

theorem noOutcome_iff : NoOutcome s ↔
    s.ret = none ∧ s.root = none ∧ s.fault = none ∧ s.vsum = none ∧ s.value = none ∧ s.efault = none := by
  simp [NoOutcome, outcomeRegisters]

theorem st_ne_parseOk_of_busy (h : busy s = true) : s.st ≠ .parseOk := by
  intro hst
  simp [busy, hst] at h

theorem st_ne_faulted_of_busy (h : busy s = true) : s.st ≠ .faulted := by
  intro hst
  simp [busy, hst] at h

/-- While a run is in progress nothing but RET is set. -/
theorem ResultInv.noOutcome_setRet (h : ResultInv s) (hbusy : busy s = true) : NoOutcome (s.setRet none) := by
  have hroot : s.root = none := by simpa [st_ne_parseOk_of_busy hbusy] using h.root
  have hfault : s.fault = none := by simpa [st_ne_faulted_of_busy hbusy] using h.fault
  have hvsum : s.vsum = none := by
    by_contra hset
    obtain ⟨p, hp, -⟩ := h.results (Option.isSome_iff_ne_none.2 hset)
    simp [hroot] at hp
  obtain ⟨hvalue, hefault⟩ := h.none_yet hvsum
  exact noOutcome_iff.2 ⟨rfl, hroot, hfault, hvsum, hvalue, hefault⟩

/-- While a run is in progress and no packet is complete, nothing is set. -/
theorem ResultInv.noOutcome (h : ResultInv s) (hst : busy s = true ∧ s.st ≠ .done) : NoOutcome s := by
  obtain ⟨hbusy, hdone⟩ := hst
  have hret : s.ret = none := by simpa [hdone] using h.ret
  have hall := h.noOutcome_setRet hbusy
  rwa [← hret, State.setRet_self] at hall

theorem NoOutcome.resultInv (h : NoOutcome s) (hst : busy s = true ∧ s.st ≠ .done) : ResultInv s := by
  obtain ⟨hbusy, hdone⟩ := hst
  obtain ⟨hret, hroot, hfault, hvsum, hvalue, hefault⟩ := noOutcome_iff.1 h
  have hok : s.st ≠ .parseOk := st_ne_parseOk_of_busy hbusy
  have hfaulted : s.st ≠ .faulted := st_ne_faulted_of_busy hbusy
  constructor <;> simp [*]

theorem NoOutcome.resultInv_raise {f : FaultRecord} (h : NoOutcome s) (hf : f.frontEnd = true) :
    ResultInv (raise f s) := by
  obtain ⟨hret, hroot, -, hvsum, hvalue, hefault⟩ := noOutcome_iff.1 h
  constructor <;> simp [*]

/-- A completed packet goes to RET. -/
theorem NoOutcome.resultInv_done (h : NoOutcome s) (p : Packet) : ResultInv ((s.setRet (some p)).setSt .done) := by
  obtain ⟨-, hroot, hfault, hvsum, hvalue, hefault⟩ := noOutcome_iff.1 h
  constructor <;> simp [*]

/-- The root packet goes to ROOT. -/
theorem NoOutcome.resultInv_parseOk (h : NoOutcome s) (p : Packet) :
    ResultInv ((s.setRoot (some p)).setSt .parseOk) := by
  obtain ⟨hret, -, hfault, hvsum, hvalue, hefault⟩ := noOutcome_iff.1 h
  constructor <;> simp [*]

theorem ResultInv.setResults {p : Packet} (h : ResultInv s) (hroot : s.root = some p) :
    ResultInv (setResults p s) where
  ret := by simpa using h.ret
  root := by simpa using h.root
  fault := by simpa using h.fault
  kind := by simpa using h.kind
  none_yet := by simp
  results _ := ⟨p, by simpa using hroot, setResults_setResults p⟩

theorem busy_of_readsField (h : readsField s.st) : busy s = true ∧ s.st ≠ .done := by
  rcases h with h | h | h | h | h <;> simp [busy, h]

theorem busy_of_prefixState {m : Mode} (h : s.st = prefixState m) : busy s = true ∧ s.st ≠ .done := by
  cases m <;> simp [busy, h, prefixState]

theorem busy_of_resumeState {m : Mode} (h : s.st = resumeState m) : busy s = true ∧ s.st ≠ .done := by
  cases m <;> simp [busy, h, resumeState]

/-- A rule that goes on, to a state in which nothing may be set. -/
theorem ResultInv.of_outcomeRegisters_eq (h : ResultInv s) (hs : busy s = true ∧ s.st ≠ .done)
    (ht : busy t = true ∧ t.st ≠ .done) (hsame : outcomeRegisters t = outcomeRegisters s) : ResultInv t :=
  NoOutcome.resultInv (hsame.trans (h.noOutcome hs)) ht

theorem ResultInv.of_rule (h : ResultInv s) (hrule : StateRule s t) : ResultInv t := by
  cases hrule
  case endOfLine hst _ => exact h.of_outcomeRegisters_eq (by simp [busy, hst]) (by simp [busy, endOfLine]) rfl
  case digit hst _ _ => exact h.of_outcomeRegisters_eq (by simp [busy, hst]) (by simp [busy, hst, takeDigit]) rfl
  case malformedHex hst _ _ => exact (h.noOutcome (by simp [busy, hst])).resultInv_raise rfl
  case unexpectedEof hst _ _ =>
    have hnone := h.noOutcome (busy_of_readsField hst)
    exact NoOutcome.resultInv_raise hnone rfl
  case literalHeader hst _ | operatorHeader hst _ _ | group hst _ =>
    exact h.of_outcomeRegisters_eq (by simp [busy, hst]) (by simp [busy]) rfl
  case lastGroup f g hst _ =>
    have hnone : NoOutcome (((s.setPos (s.pos + 5)).setCflag f).setAcc (s.acc * 16 + g.toNat)) :=
      h.noOutcome (by simp [busy, hst])
    exact hnone.resultInv_done _
  case lengthType i hst _ =>
    refine h.of_outcomeRegisters_eq (by simp [busy, hst]) ?_ rfl
    unfold afterLengthType
    split <;> simp [busy]
  case opened m _ _ hst _ _ =>
    exact h.of_outcomeRegisters_eq (busy_of_prefixState hst) (busy_of_resumeState (m := m) rfl) rfl
  case completed f rest hst _ =>
    have hnone : NoOutcome (s.setStack rest) := h.noOutcome (busy_of_resumeState hst)
    exact hnone.resultInv_done f.packet
  case overconsumed hst _ => exact (h.noOutcome (by simp [busy, hst])).resultInv_raise rfl
  case nextSubpacket hst _ _ => exact h.of_outcomeRegisters_eq (busy_of_resumeState hst) (by simp [busy]) rfl
  case root p hst _ _ => exact (h.noOutcome_setRet (by simp [busy, hst])).resultInv_parseOk p
  case subpacket f _ hst _ _ =>
    have hnone := h.noOutcome_setRet (by simp [busy, hst])
    exact NoOutcome.resultInv hnone (busy_of_resumeState (m := f.mode) rfl)
  case results hroot => exact h.setResults hroot

theorem resultInv_reset : ResultInv State.reset := by constructor <;> simp [State.reset]

theorem resultInv_started (line : List CharCode) : ResultInv (started line) := by
  constructor <;> simp [started, State.reset]

/-- Settles O47: each outcome of the state rules writes RET, ROOT, FAULT and the results as it enters the state they
belong to, and RET is taken as Done is left. -/
theorem resultInvariantIsKept : Obligations.ResultInvariantIsKept :=
  fun _ _ => step_keeps resultInv_reset resultInv_started ResultInv.of_rule

end Sys2Proof.Machine
end

section
/-! SUPPORT. The parser's invariant (R34, R150), kept by every outcome of the state rules. Its clauses fall into three:
what the frames are, the room they have for subpackets, and what ST says of the other registers. -/

namespace Sys2Proof.Machine

variable {s t : State}

/-! ## Frames -/

theorem Packets.length_snoc (ps : Packets) (p : Packet) : (ps.snoc p).length = ps.length + 1 := by
  match ps with
  | .nil => rfl
  | .cons q ps => simp [Packets.snoc, Packets.length, Packets.length_snoc ps p]

/-- A sound frame stays sound as the cursor moves on. -/
theorem FrameSound.mono {p q : Nat} {f : Frame} (h : FrameSound p f) (hpq : p ≤ q) : FrameSound q f := by
  obtain ⟨htid, hmark, htyped, hcount⟩ := h
  exact ⟨htid, hmark.trans hpq, htyped, hcount⟩

/-- A frame just opened for an operator is sound: it has no subpackets yet. -/
theorem frameSound_newFrame (m : Mode) (n : Nat) (h : s.tid ≠ 4) : FrameSound s.pos (newFrame m n s) :=
  ⟨h, le_rfl, rfl, fun _ => Nat.zero_le n⟩

/-- A frame that has room takes a well-shaped subpacket. -/
theorem FrameSound.append {pos : Nat} {f : Frame} {p : Packet} (h : FrameSound pos f) (hp : p.typed = true)
    (hroom : f.mode = .byCount → f.kids.length < f.limit) : FrameSound pos (f.append p) := by
  obtain ⟨htid, hmark, htyped, -⟩ := h
  refine ⟨htid, hmark, ?_, fun hm => ?_⟩
  · simp [Frame.append, Packets.typed_snoc, htyped, hp]
  · have hlt := hroom hm
    rw [Frame.append, Packets.length_snoc]
    exact hlt

/-- A complete frame's packet has the right shape. -/
theorem FrameSound.typed_packet {pos : Nat} {f : Frame} (h : FrameSound pos f) : f.packet.typed = true := by
  obtain ⟨htid, -, htyped, -⟩ := h
  simpa [Frame.packet, Packet.typed, htyped] using htid

/-! ## Room for subpackets -/

/-- Every ByCount frame of a list has fewer subpackets than its count. -/
def HasRoom (k : List Frame) : Prop := ∀ f ∈ k, f.mode = .byCount → f.kids.length < f.limit

theorem hasRoom_cons {f : Frame} {k : List Frame} :
    HasRoom (f :: k) ↔ (f.mode = .byCount → f.kids.length < f.limit) ∧ HasRoom k := List.forall_mem_cons

/-- Only the ByCount frame under test may be without room. -/
theorem waiting_of_ne (h : s.st ≠ .parsingSubpacketsByCount) : waiting s = s.stack := by
  unfold waiting
  split
  · contradiction
  all_goals rfl

theorem waiting_of_eq (h : s.st = .parsingSubpacketsByCount) : waiting s = s.stack.tail := by
  simp [waiting, h]

theorem ParserInv.hasRoom_stack (h : ParserInv s) (hst : s.st ≠ .parsingSubpacketsByCount) : HasRoom s.stack := by
  have hroom := h.room
  rwa [waiting_of_ne hst] at hroom

/-- The frames under the top one always have room. -/
theorem ParserInv.hasRoom_tail (h : ParserInv s) {f : Frame} {rest : List Frame} (hstack : s.stack = f :: rest) :
    HasRoom rest := by
  have hroom : HasRoom (waiting s) := h.room
  by_cases hst : s.st = .parsingSubpacketsByCount
  · rwa [waiting_of_eq hst, hstack] at hroom
  · rw [waiting_of_ne hst, hstack] at hroom
    exact (hasRoom_cons.1 hroom).2

theorem hasRoom_waiting_of_stack (h : HasRoom t.stack) : HasRoom (waiting t) := by
  by_cases hst : t.st = .parsingSubpacketsByCount
  · rw [waiting_of_eq hst]
    exact fun f hf => h f (List.mem_of_mem_tail hf)
  · rwa [waiting_of_ne hst]

/-- A state about to test its top frame needs room in the frames under it only. -/
theorem hasRoom_waiting_of_resumeState {f : Frame} {rest : List Frame} (hst : t.st = resumeState f.mode)
    (hstack : t.stack = f :: rest) (h : HasRoom rest) : HasRoom (waiting t) := by
  cases hm : f.mode
  · rw [waiting_of_ne (by simp [hst, hm, resumeState]), hstack]
    exact hasRoom_cons.2 ⟨by simp [hm], h⟩
  · rwa [waiting_of_eq (by rw [hst, hm]; rfl), hstack]

/-- A top frame under test that is not complete has room. -/
theorem ParserInv.hasRoom_of_incomplete (h : ParserInv s) {m : Mode} {f : Frame} {rest : List Frame}
    (hst : s.st = resumeState m) (hstack : s.stack = f :: rest) (hcount : m = .byCount → f.kids.length ≠ f.limit) :
    HasRoom s.stack := by
  cases m with
  | byLength => exact h.hasRoom_stack (by simp [hst, resumeState])
  | byCount =>
    obtain ⟨-, -, -, hle⟩ := h.frames f (by simp [hstack])
    rw [hstack]
    exact hasRoom_cons.2 ⟨fun hm => lt_of_le_of_ne (hle hm) (hcount rfl), h.hasRoom_tail hstack⟩

/-! ## Each clause of the invariant, under every rule -/

theorem ParserInv.cursor_of_rule (h : ParserInv s) (hrule : StateRule s t) : t.pos ≤ t.len := by
  have hcursor := h.cursor
  cases hrule
  case endOfLine => exact Nat.zero_le _
  case unexpectedEof p _ _ _ _ hroom =>
    change p ≤ s.len
    unfold remaining at hroom
    omega
  case literalHeader hroom | operatorHeader hroom _ | group hroom | lastGroup hroom | lengthType hroom | opened hroom =>
    change s.pos + _ ≤ s.len
    unfold remaining at hroom
    omega
  case results => simpa using hcursor
  all_goals exact hcursor

theorem ParserInv.tid_ne_of_prefixState (h : ParserInv s) {m : Mode} (hst : s.st = prefixState m) : s.tid ≠ 4 := by
  cases m with
  | byLength => exact h.operatorType (.inr (.inl hst))
  | byCount => exact h.operatorType (.inr (.inr hst))

theorem ParserInv.frames_of_rule (h : ParserInv s) (hrule : StateRule s t) : ∀ f ∈ t.stack, FrameSound t.pos f := by
  have hadvance : ∀ n, ∀ f ∈ s.stack, FrameSound (s.pos + n) f := fun n f hf => (h.frames f hf).mono (by omega)
  cases hrule
  case endOfLine hst _ => simp [endOfLine, h.emptyStack (.inr (.inl hst))]
  case unexpectedEof hpos _ => exact fun f hf => (h.frames f hf).mono hpos
  case literalHeader | operatorHeader | group | lastGroup | lengthType => exact hadvance _
  case opened m w n hst _ _ =>
    refine List.forall_mem_cons.2 ⟨?_, hadvance w⟩
    exact frameSound_newFrame (s := s.setPos (s.pos + w)) m n (h.tid_ne_of_prefixState hst)
  case completed hstack => exact fun f hf => h.frames f (hstack ▸ List.mem_cons_of_mem _ hf)
  case subpacket p f rest hst hret hstack =>
    have hframes := h.frames
    have hroom := h.hasRoom_stack (by simp [hst])
    rw [hstack] at hframes hroom
    obtain ⟨hf, hrest⟩ := List.forall_mem_cons.1 hframes
    exact List.forall_mem_cons.2 ⟨hf.append (h.retTyped p hret) (hasRoom_cons.1 hroom).1, hrest⟩
  case results => simpa using h.frames
  all_goals exact h.frames

theorem ParserInv.marks_of_rule (h : ParserInv s) (hrule : StateRule s t) :
    t.stack.Pairwise fun f g => g.mark < f.mark := by
  have hmarks := h.marks
  cases hrule
  case opened m w n hst hw _ =>
    refine List.pairwise_cons.2 ⟨fun g hg => ?_, hmarks⟩
    obtain ⟨-, hle, -⟩ := h.frames g hg
    exact hle.trans_lt (Nat.lt_add_of_pos_right hw)
  case completed hstack =>
    rw [hstack] at hmarks
    exact (List.pairwise_cons.1 hmarks).2
  case subpacket hstack =>
    rw [hstack] at hmarks
    exact List.pairwise_cons.2 (List.pairwise_cons.1 hmarks)
  case results => simpa using hmarks
  all_goals exact hmarks

theorem ParserInv.room_of_rule (h : ParserInv s) (hrule : StateRule s t) : HasRoom (waiting t) := by
  cases hrule
  case endOfLine hst _ | malformedHex hst _ _ | digit hst _ _ | literalHeader hst _ | operatorHeader hst _ _ |
      group hst _ | lastGroup hst _ | lengthType hst _ | overconsumed hst _ =>
    have hroom := h.hasRoom_stack (by simp [hst])
    exact hasRoom_waiting_of_stack hroom
  case unexpectedEof hst _ _ =>
    have hroom := h.hasRoom_stack (by rcases hst with hst | hst | hst | hst | hst <;> simp [hst])
    exact hasRoom_waiting_of_stack hroom
  case opened m w n hst _ _ =>
    have hroom := h.hasRoom_stack (by cases m <;> simp [hst, prefixState])
    exact hasRoom_waiting_of_resumeState rfl rfl hroom
  case completed hst hstack => exact h.hasRoom_tail hstack
  case nextSubpacket hst hstack hcount => exact h.hasRoom_of_incomplete hst hstack hcount
  case root hst _ _ => exact h.hasRoom_stack (by simp [hst])
  case subpacket p f rest hst _ hstack =>
    exact hasRoom_waiting_of_resumeState (f := f.append p) rfl rfl (h.hasRoom_tail hstack)
  case results hst _ _ =>
    have hroom := h.hasRoom_stack (by simp [hst])
    exact hasRoom_waiting_of_stack (by simpa using hroom)

theorem ParserInv.retTyped_of_rule (h : ParserInv s) (hrule : StateRule s t) :
    ∀ p, t.ret = some p → p.typed = true := by
  cases hrule
  case lastGroup hst _ =>
    rintro p ⟨⟩
    simp [Packet.typed, h.literalType hst]
  case completed f rest hst hstack =>
    rintro p ⟨⟩
    exact (h.frames f (by simp [hstack])).typed_packet
  case root | subpacket => rintro p ⟨⟩
  case results => simpa using h.retTyped
  all_goals exact h.retTyped

theorem ParserInv.rootTyped_of_rule (h : ParserInv s) (hrule : StateRule s t) :
    ∀ p, t.root = some p → p.typed = true := by
  cases hrule
  case root p _ hret _ =>
    rintro q ⟨⟩
    exact h.retTyped p hret
  case results => simpa using h.rootTyped
  all_goals exact h.rootTyped

/-! ## What ST says of TID and of the stack -/

/-- The clauses of the invariant that ST selects: the type being read, the mode of the frame under test, and the empty
stack outside a parse. -/
structure StFits (s : State) : Prop where
  literalType : s.st = .readingLiteralGroup → s.tid = 4
  operatorType : s.st = .readingLengthTypeFlag ∨ s.st = .readingTotalLengthPrefix ∨ s.st = .readingSubpacketCount →
    s.tid ≠ 4
  topByLength : s.st = .parsingSubpacketsByLength → ∃ f rest, s.stack = f :: rest ∧ f.mode = .byLength
  topByCount : s.st = .parsingSubpacketsByCount → ∃ f rest, s.stack = f :: rest ∧ f.mode = .byCount
  emptyStack : s.st = .idle ∨ s.st = .loading ∨ s.st = .parseOk → s.stack = []

theorem stFits_of_free (hst : s.st = .readingHeader ∨ s.st = .done ∨ s.st = .faulted) : StFits s := by
  constructor <;> rcases hst with hst | hst | hst <;> simp [hst]

theorem stFits_of_literal (hst : s.st = .readingLiteralGroup) (htid : s.tid = 4) : StFits s := by
  constructor <;> simp [hst, htid]

theorem stFits_of_operator
    (hst : s.st = .readingLengthTypeFlag ∨ s.st = .readingTotalLengthPrefix ∨ s.st = .readingSubpacketCount)
    (htid : s.tid ≠ 4) : StFits s := by
  refine ⟨?_, fun _ => htid, ?_, ?_, ?_⟩ <;> rcases hst with hst | hst | hst <;> simp [hst]

theorem stFits_of_resume {f : Frame} {rest : List Frame} (hst : s.st = resumeState f.mode)
    (hstack : s.stack = f :: rest) : StFits s := by
  cases hm : f.mode <;> constructor <;> simp [hst, hstack, hm, resumeState]

theorem stFits_of_empty (hst : s.st = .idle ∨ s.st = .loading ∨ s.st = .parseOk) (hstack : s.stack = []) :
    StFits s := by
  constructor <;> rcases hst with hst | hst | hst <;> simp [hst, hstack]

theorem ParserInv.stFits_of_rule (h : ParserInv s) (hrule : StateRule s t) : StFits t := by
  cases hrule
  case endOfLine | nextSubpacket => exact stFits_of_free (.inl rfl)
  case lastGroup | completed => exact stFits_of_free (.inr (.inl rfl))
  case malformedHex | unexpectedEof | overconsumed => exact stFits_of_free (.inr (.inr rfl))
  case digit hst _ _ => exact stFits_of_empty (.inr (.inl hst)) (h.emptyStack (.inr (.inl hst)))
  case literalHeader => exact stFits_of_literal rfl rfl
  case group hst _ => exact stFits_of_literal rfl (h.literalType hst)
  case operatorHeader hy => exact stFits_of_operator (.inl rfl) hy
  case lengthType hst _ =>
    refine stFits_of_operator (.inr ?_) (h.operatorType (.inl hst))
    unfold afterLengthType
    split <;> simp
  case opened => exact stFits_of_resume rfl rfl
  case subpacket p f _ _ _ _ => exact stFits_of_resume (f := f.append p) rfl rfl
  case root hstack => exact stFits_of_empty (.inr (.inr rfl)) hstack
  case results hst _ _ => exact stFits_of_empty (by simp [hst]) (by simp [h.emptyStack (.inr (.inr hst))])

/-! ## The invariant -/

theorem ParserInv.of_rule (h : ParserInv s) (hrule : StateRule s t) : ParserInv t :=
  { h.stFits_of_rule hrule with
    cursor := h.cursor_of_rule hrule
    frames := h.frames_of_rule hrule
    marks := h.marks_of_rule hrule
    room := h.room_of_rule hrule
    retTyped := h.retTyped_of_rule hrule
    rootTyped := h.rootTyped_of_rule hrule }

theorem parserInv_reset : ParserInv State.reset := by
  constructor <;> simp [State.reset, waiting]

theorem parserInv_started (line : List CharCode) : ParserInv (started line) := by
  constructor <;> simp [started, State.reset, waiting]

/-- Settles O45: every outcome of the state rules keeps each clause of the invariant. -/
theorem parserInvariantIsKept : Obligations.ParserInvariantIsKept :=
  fun _ _ => step_keeps parserInv_reset parserInv_started ParserInv.of_rule

/-- Settles O48: the three invariants hold of the state after RESET. -/
theorem resetSatisfiesTheInvariants : Obligations.ResetSatisfiesTheInvariants :=
  ⟨parserInv_reset, storeInv_reset, resultInv_reset⟩

end Sys2Proof.Machine
end

section
/-! SUPPORT. The tree as events, a literal's evaluation, and what the host may read (R36, R38, R40, R42, R170). -/

namespace Sys2Proof.Machine

variable {s : State}

/-! ## Events (R36) -/

/-- No packet's events begin with the mark that closes an operator. -/
theorem eventsThen_ne_closed (p : Packet) (k l : List Event) : eventsThen p k ≠ .closed :: l := by
  cases p <;> simp [eventsThen]

mutual
/-- The events of a tree determine it, and where they end in a longer list. -/
theorem eq_of_eventsThen_eq {p q : Packet} {k l : List Event} (hp : p.typed = true) (hq : q.typed = true)
    (h : eventsThen p k = eventsThen q l) : p = q ∧ k = l := by
  match p, q with
  | .literal v y x, .literal v' y' x' =>
    simp only [Packet.typed, decide_eq_true_eq] at hp hq
    obtain ⟨⟨rfl, rfl⟩, rfl⟩ : (v = v' ∧ x = x') ∧ k = l := by simpa [eventsThen] using h
    exact ⟨by rw [hp, hq], rfl⟩
  | .operator v y subs, .operator v' y' subs' =>
    simp only [Packet.typed, Bool.and_eq_true] at hp hq
    obtain ⟨⟨rfl, rfl⟩, hsubs⟩ : (v = v' ∧ y = y') ∧
        eventsAllThen subs (.closed :: k) = eventsAllThen subs' (.closed :: l) := by simpa [eventsThen] using h
    obtain ⟨rfl, rfl⟩ := eq_of_eventsAllThen_eq hp.2 hq.2 hsubs
    exact ⟨rfl, rfl⟩
  | .literal .., .operator .. | .operator .., .literal .. => simp [eventsThen] at h

/-- The same of an operator's subpackets, up to the mark that closes it. -/
theorem eq_of_eventsAllThen_eq {ps qs : Packets} {k l : List Event} (hps : ps.typed = true) (hqs : qs.typed = true)
    (h : eventsAllThen ps (.closed :: k) = eventsAllThen qs (.closed :: l)) : ps = qs ∧ k = l := by
  match ps, qs with
  | .nil, .nil => exact ⟨rfl, by simpa [eventsAllThen] using h⟩
  | .nil, .cons q qs => exact absurd h.symm (eventsThen_ne_closed q _ _)
  | .cons p ps, .nil => exact absurd h (eventsThen_ne_closed p _ _)
  | .cons p ps, .cons q qs =>
    simp only [Packets.typed, Bool.and_eq_true] at hps hqs
    obtain ⟨rfl, hrest⟩ := eq_of_eventsThen_eq hps.1 hqs.1 h
    obtain ⟨rfl, rfl⟩ := eq_of_eventsAllThen_eq hps.2 hqs.2 hrest
    exact ⟨rfl, rfl⟩
end

/-- Settles O31: by induction on the tree, an event list with a tree's events in front is read back in one way only. -/
theorem eventsDetermineTheTree : Obligations.EventsDetermineTheTree := by
  intro p q hp hq h
  obtain ⟨heq, -⟩ := eq_of_eventsThen_eq hp hq h
  exact heq

/-! ## A literal's results (R38, R170, R181) -/

theorem setResults_literal (v : Version) (y : TypeId) (x : Nat) :
    setResults (.literal v y x) s = { s with vsum := some v.toNat, value := some x, efault := none } := rfl

theorem exec_lit_parseOk {v : Version} {groups : List Nibble} {x : Nat} (hst : s.st = .parseOk) (hvsum : s.vsum = none)
    (hroot : s.root = some (.literal v 4 x)) : exec (.lit v groups) s = .next (setResults (.literal v 4 x) s) := by
  simp [exec, execLit, litTransition, isCurrent, hst, hroot, Packet.version, Packet.typeId, backEnd, hvsum]

/-- Settles O24: LIT in ParseOk and the block's step are both the back end's step, which sets the literal's results. -/
theorem literalEvaluates : Obligations.LiteralEvaluates := by
  intro v groups x s hst hvsum hrequest hroot
  have hexec := exec_lit_parseOk (groups := groups) hst hvsum hroot
  exact ⟨(step_backEnd hrequest hst hvsum hroot).trans hexec.symm, hexec.trans (by rw [setResults_literal])⟩

/-! ## What the host may read (R40, R42) -/

theorem hostView_of_busy (h : busy s = true) : hostView s = .nothing := by
  cases hst : s.st <;> simp [busy, hostView, hst] at h ⊢

theorem hostView_of_idle (h : s.st = .idle) : hostView s = .nothing := by simp [hostView, h]

theorem hostView_of_parseOk {r : Packet} {n : Nat} {e : Evaluated} (hst : s.st = .parseOk) (hroot : s.root = some r)
    (hvsum : s.vsum = some n) (hresult : resultRegisters s = some e) : hostView s = .parsed r n e s.pos s.len := by
  simp [hostView, hst, hroot, hvsum, hresult]

theorem resultRegisters_of_value {x : Nat} (h : s.value = some x) : resultRegisters s = some (.ok x) := by
  simp [resultRegisters, h]

theorem resultRegisters_of_efault {e : FaultRecord} (hvalue : s.value = none) (hefault : s.efault = some e) :
    resultRegisters s = some (.error e) := by
  simp [resultRegisters, hvalue, hefault]

theorem rootPort_of_ne (h : s.st ≠ .parseOk) : rootPort s = none := by simp [rootPort, okPort, h]

/-- Settles O44: the host's view, by the state it is taken in. -/
theorem hostSeesOnlyOutcomes : Obligations.HostSeesOnlyOutcomes := fun _ =>
  ⟨hostView_of_busy, hostView_of_idle, fun _ => hostView_of_faulted,
    fun _ _ _ hst hroot hvsum hvalue => hostView_of_parseOk hst hroot hvsum (resultRegisters_of_value hvalue),
    fun _ _ _ hst hroot hvsum hvalue hefault =>
      hostView_of_parseOk hst hroot hvsum (resultRegisters_of_efault hvalue hefault),
    rootPort_of_ne⟩

end Sys2Proof.Machine
end

section
/-! SUPPORT. BITMEM's fields: what the 22 character instructions store and leave alone (R61, R113), and that adjacent
fields make up the wide one (R62, R63). -/

namespace Sys2Proof.Machine

variable {s : State}

/-! ## The frame of a character instruction -/

@[simp] theorem takeDigit_bitmem (v : Nibble) : (takeDigit v s).bitmem = memWrite s.bitmem (4 * s.ci) v := rfl

theorem takeDigit_frame (v : Nibble) :
    takeDigit v s = { s with bitmem := (takeDigit v s).bitmem, ci := s.ci + 1 } := rfl

/-- Settles O8: a character instruction goes on by taking its digit, and what that leaves in BITMEM is MemWrite's read
and frame. -/
theorem characterFrame : Obligations.CharacterFrame := by
  intro i s t hformat hstep
  obtain ⟨c, v, hcode, hv, -, hexec⟩ := exec_hexChar i hformat
  obtain ⟨-, -, rfl⟩ := hexDigit_next (hexec ▸ hstep)
  refine ⟨⟨c, v, hcode, hv, ?_⟩, fun a ha => ?_, takeDigit_frame v⟩
  · rw [takeDigit_bitmem]
    exact memRead_memWrite _ _ v
  · rw [takeDigit_bitmem]
    exact read_memWrite_outside _ _ a v ha

/-! ## Adjacent fields -/

/-- The number a field stands for is the big-endian value of its bits (R62). -/
theorem toNat_fieldOf {w : Nat} {bs : List Bit} (h : bs.length = w) : (fieldOf w bs).toNat = be bs := by
  rw [← be_fieldBits, fieldBits_fieldOf bs h]

/-- A field is read exactly where its bits are. -/
theorem memRead_eq_some {w p : Nat} {m : Memory} {v : BitVec w} :
    memRead w m p = some v ↔ Memory.readBits m p w = some (fieldBits v) := by
  constructor
  · intro h
    obtain ⟨bs, hbits, rfl⟩ := Option.map_eq_some_iff.1 h
    rw [hbits, fieldBits_fieldOf bs (Memory.length_readBits hbits)]
  · intro h
    rw [memRead, h, Option.map_some, fieldOf_fieldBits]

/-- The wide field over two adjacent ones consists of the bits of both, in order. -/
theorem memRead_add {m : Memory} {p n k : Nat} {a : BitVec n} {b : BitVec k} (ha : memRead n m p = some a)
    (hb : memRead k m (p + n) = some b) :
    memRead (n + k) m p = some (fieldOf (n + k) (fieldBits a ++ fieldBits b)) := by
  have hbits : Memory.readBits m p (n + k) = some (fieldBits a ++ fieldBits b) := by
    rw [Memory.readBits_add, memRead_eq_some.1 ha, memRead_eq_some.1 hb]
  rw [memRead, hbits, Option.map_some]

/-- Settles O12: the wide read concatenates the bits of the two, and `be` of a concatenation is the split of R63. -/
theorem adjacentReadsCompose : Obligations.AdjacentReadsCompose := by
  intro m p n k a b ha hb
  refine ⟨_, memRead_add ha hb, ?_⟩
  calc (fieldOf (n + k) (fieldBits a ++ fieldBits b)).toNat
      = be (fieldBits a ++ fieldBits b) := toNat_fieldOf (by simp)
    _ = a.toNat * 2 ^ k + b.toNat := by rw [be_append, be_fieldBits, be_fieldBits, length_fieldBits]

end Sys2Proof.Machine
end

section
/-! SUPPORT. No step gets stuck (R70, R150): in a state that satisfies the invariants every state rule goes on, but
where no step is enabled (R157). One lemma for each state rule, from the clause of the invariant it needs. -/

namespace Sys2Proof.Machine

variable {s : State} {bs : List Bit}

/-! ## Host actions and Loading -/

/-- RESET is always taken, and START is taken or refused by one of the two names of U5 and U7. -/
theorem allowedStop_hostAction (c : HostCommand) : allowedStop (hostAction c s) := by
  cases c with
  | reset => trivial
  | start line =>
    simp only [hostAction, startWith]
    split_ifs
    · exact .inr (.inl rfl)
    · trivial
    · exact .inr (.inr rfl)

theorem allowedStop_loadingStep : allowedStop (loadingStep s) := by
  unfold loadingStep
  split
  · trivial
  · split <;> trivial

/-! ## The rules that read a field -/

/-- While the parser is at work, the decoded line stands in BITMEM up to LEN (R23, R24, R70). -/
theorem RunInv.onBits (h : RunInv s) (hrequest : s.request = none) (hst : parsing s.st = true) :
    ∃ bs, OnBits bs s := by
  obtain ⟨bs, hdecode, hbitmem⟩ := h.store.bits
  obtain ⟨hci, hlen⟩ := h.store.complete (.inl hst)
  have hbusy : busy s = true := by cases hx : s.st <;> simp [parsing, busy, hx] at hst ⊢
  obtain ⟨-, -, -, hvsum, -⟩ := noOutcome_iff.1 (h.result.noOutcome_setRet hbusy)
  refine ⟨bs, hrequest, hbitmem, ?_, hvsum⟩
  rw [hlen, length_of_decodeFrom_ok hdecode, hci, List.take_length]

/-- A field read from a line's bits never meets an unwritten one: it raises UnexpectedEof or delivers the field. -/
theorem OnBits.allowedStop_field {w : Nat} {k : BitVec w → State → Out} (h : OnBits bs s) (hw : 0 < w)
    (hk : ∀ v, allowedStop (k v (s.setPos (s.pos + w)))) : allowedStop (field w none s k) := by
  rcases Nat.lt_or_ge (remaining s) w with hshort | henough
  · rw [field_short hshort]
    trivial
  · have hrem : remaining s = bs.length - s.pos := by rw [remaining, h.len]
    rw [field_read henough (h.bitmem ▸ memRead_memoryOf (by omega))]
    exact hk _

theorem OnBits.allowedStop_readingHeader (h : OnBits bs s) : allowedStop (readingHeader none none s) := by
  refine h.allowedStop_field (by decide) fun v => ?_
  have hver : OnBits bs ((s.setPos (s.pos + 3)).setVer v) := h.congr rfl rfl rfl rfl
  refine hver.allowedStop_field (by decide) fun y => ?_
  split <;> trivial

theorem OnBits.allowedStop_readingLiteralGroup (h : OnBits bs s) : allowedStop (readingLiteralGroup none none s) := by
  refine h.allowedStop_field (by decide) fun f => ?_
  have hflag : OnBits bs ((s.setPos (s.pos + 1)).setCflag f) := h.congr rfl rfl rfl rfl
  exact hflag.allowedStop_field (by decide) fun _ => trivial

theorem OnBits.allowedStop_readingLengthTypeFlag (h : OnBits bs s) : allowedStop (readingLengthTypeFlag none s) :=
  h.allowedStop_field (by decide) fun _ => trivial

theorem OnBits.allowedStop_readingTotalLengthPrefix (h : OnBits bs s) :
    allowedStop (readingTotalLengthPrefix none s) :=
  h.allowedStop_field (by decide) fun _ => trivial

theorem OnBits.allowedStop_readingSubpacketCount (h : OnBits bs s) : allowedStop (readingSubpacketCount none s) :=
  h.allowedStop_field (by decide) fun _ => trivial

/-! ## The rules that need a frame or a packet -/

/-- The frame under test is there and its mark is not ahead of POS (R150 b, f). -/
theorem ParserInv.allowedStop_parsingSubpacketsByLength (h : ParserInv s) (hst : s.st = .parsingSubpacketsByLength) :
    allowedStop (parsingSubpacketsByLength s) := by
  obtain ⟨f, rest, hstack, -⟩ := h.topByLength hst
  obtain ⟨-, hmark, -⟩ := h.frames f (by simp [hstack])
  rw [parsingSubpacketsByLength_eq hstack hmark]
  split_ifs <;> trivial

theorem ParserInv.allowedStop_parsingSubpacketsByCount (h : ParserInv s) (hst : s.st = .parsingSubpacketsByCount) :
    allowedStop (parsingSubpacketsByCount s) := by
  obtain ⟨f, rest, hstack, -⟩ := h.topByCount hst
  rw [parsingSubpacketsByCount_eq hstack]
  split_ifs <;> trivial

/-- Done finds its packet in RET (R32). -/
theorem ResultInv.allowedStop_done (h : ResultInv s) (hst : s.st = .done) : allowedStop (done s) := by
  obtain ⟨p, hret⟩ := Option.isSome_iff_exists.1 (h.ret.2 hst)
  simp only [done, hret]
  trivial

/-- The back end finds the tree in ROOT (R35), or its results are set and the run has halted (R157). -/
theorem ResultInv.allowedStop_backEnd (h : ResultInv s) (hst : s.st = .parseOk) : allowedStop (backEnd s) := by
  obtain ⟨p, hroot⟩ := Option.isSome_iff_exists.1 (h.root.2 hst)
  simp only [backEnd, hroot]
  split_ifs
  · exact .inl rfl
  · trivial

/-! ## The step -/

/-- Each state rule finds what it needs in the invariants. -/
theorem RunInv.allowedStop_sequencer (h : RunInv s) (hrequest : s.request = none) : allowedStop (sequencer s) := by
  have honBits := h.onBits hrequest
  unfold sequencer
  cases hst : s.st <;> simp only [hst, parsing, forall_const] at honBits ⊢
  case idle | faulted => exact .inl rfl
  case loading => exact allowedStop_loadingStep
  case parsingSubpacketsByLength => exact h.parser.allowedStop_parsingSubpacketsByLength hst
  case parsingSubpacketsByCount => exact h.parser.allowedStop_parsingSubpacketsByCount hst
  case done => exact h.result.allowedStop_done hst
  case parseOk => exact h.result.allowedStop_backEnd hst
  all_goals obtain ⟨bs, hbits⟩ := honBits
  case readingHeader => exact hbits.allowedStop_readingHeader
  case readingLiteralGroup => exact hbits.allowedStop_readingLiteralGroup
  case readingLengthTypeFlag => exact hbits.allowedStop_readingLengthTypeFlag
  case readingTotalLengthPrefix => exact hbits.allowedStop_readingTotalLengthPrefix
  case readingSubpacketCount => exact hbits.allowedStop_readingSubpacketCount

/-- Settles O50: a host action that waits is taken or refused by name; else the step is the state rule of ST, which
never gets stuck under the invariants. -/
theorem noStepGetsStuck : Obligations.NoStepGetsStuck := by
  intro s h
  cases hrequest : s.request with
  | some c =>
    simp only [step, hrequest]
    exact allowedStop_hostAction c
  | none =>
    rw [step_eq_sequencer hrequest]
    exact h.allowedStop_sequencer hrequest

end Sys2Proof.Machine
end

section
/-! SUPPORT. Each code has one meaning and each meaning one code (R81, R83 to R90, R97): what `decodeChar` and `decodeBits`
accept is said once, as an equivalence with `encode`, and both directions of the round trip are read off it. -/

namespace Sys2Proof.Machine

/-! ## The shape of an instruction, by its format -/

theorem eq_lit_of_format {i : Instr} (h : i.format = .lit) : ∃ v gs, i = .lit v gs := by
  cases i with
  | lit v gs => exact ⟨v, gs, rfl⟩
  | _ => cases h

/-- Only a literal can be ill formed, and no character is one (R84). -/
theorem wellFormed_of_encode_char {i : Instr} {c : CharCode} (h : encode i = .char c) : i.wellFormed = true := by
  cases i with
  | lit => cases h
  | _ => rfl

theorem wellFormed_lit {v : Version} {gs : List Nibble} : (Instr.lit v gs).wellFormed = true ↔ gs ≠ [] := by
  simp [Instr.wellFormed]

/-- No OP.L operator has the literal's type, and each has the OP.L code of its own type (R86, R87). -/
theorem opLInstr_eq_some {y : TypeId} {v : Version} {n : LengthField} {i : Instr} (h : opLInstr y v n = some i) :
    y ≠ 4 ∧ i.wellFormed = true ∧ encode i = .bits (opLBits y v n) := by
  unfold opLInstr at h
  split at h
  case h_8 => cases h
  all_goals
    next hy =>
      cases h
      obtain rfl := eq_ofNat_of_toNat_eq hy
      exact ⟨by decide, rfl, rfl⟩

theorem encode_of_opLInstr {y : TypeId} {v : Version} {n : LengthField} {i : Instr} (h : opLInstr y v n = some i) :
    encode i = .bits (opLBits y v n) := by
  obtain ⟨-, -, hcode⟩ := opLInstr_eq_some h
  exact hcode

/-- No OP.C operator has the literal's type, and each has the OP.C code of its own type (R86, R88). -/
theorem opCInstr_eq_some {y : TypeId} {v : Version} {c : CountField} {i : Instr} (h : opCInstr y v c = some i) :
    y ≠ 4 ∧ i.wellFormed = true ∧ encode i = .bits (opCBits y v c) := by
  unfold opCInstr at h
  split at h
  case h_8 => cases h
  all_goals
    next hy =>
      cases h
      obtain rfl := eq_ofNat_of_toNat_eq hy
      exact ⟨by decide, rfl, rfl⟩

theorem encode_of_opCInstr {y : TypeId} {v : Version} {c : CountField} {i : Instr} (h : opCInstr y v c = some i) :
    encode i = .bits (opCBits y v c) := by
  obtain ⟨-, -, hcode⟩ := opCInstr_eq_some h
  exact hcode

/-- An instruction is a character, a literal, or an operator of one of the two forms (R89). -/
theorem instr_cases (i : Instr) :
    (∃ c, encode i = .char c ∧ decodeChar c = .ok i) ∨ (∃ v gs, i = .lit v gs) ∨
      (∃ y v n, opLInstr y v n = some i) ∨ (∃ y v c, opCInstr y v c = some i) := by
  cases hformat : i.format with
  | hexChar =>
    obtain ⟨c, -, hcode, -, hdecode, -⟩ := exec_hexChar i hformat
    exact .inl ⟨c, hcode, hdecode⟩
  | lit => exact .inr (.inl (eq_lit_of_format hformat))
  | opL =>
    obtain ⟨y, v, n, -, -, -, -, hi, -⟩ := exec_opL i hformat
    exact .inr (.inr (.inl ⟨y, v, n, hi⟩))
  | opC =>
    obtain ⟨y, v, c, -, -, -, -, hi, -⟩ := exec_opC i hformat
    exact .inr (.inr (.inr ⟨y, v, c, hi⟩))

/-- The instructions whose code is a bit sequence are the literals and the operators of both forms. -/
theorem encode_eq_bits {i : Instr} {bs : List Bit} :
    encode i = .bits bs ↔
      (∃ v gs, i = .lit v gs ∧ bs = litBits v gs) ∨
      (∃ y v n, opLInstr y v n = some i ∧ bs = opLBits y v n) ∨
      (∃ y v c, opCInstr y v c = some i ∧ bs = opCBits y v c) := by
  constructor
  · intro h
    obtain ⟨c, hcode, -⟩ | ⟨v, gs, rfl⟩ | ⟨y, v, n, hi⟩ | ⟨y, v, c, hi⟩ := instr_cases i
    · cases hcode.symm.trans h
    · cases h
      exact .inl ⟨v, gs, rfl, rfl⟩
    · cases (encode_of_opLInstr hi).symm.trans h
      exact .inr (.inl ⟨y, v, n, hi, rfl⟩)
    · cases (encode_of_opCInstr hi).symm.trans h
      exact .inr (.inr ⟨y, v, c, hi, rfl⟩)
  · rintro (⟨v, gs, rfl, rfl⟩ | ⟨y, v, n, hi, rfl⟩ | ⟨y, v, c, hi, rfl⟩)
    · rfl
    · exact encode_of_opLInstr hi
    · exact encode_of_opCInstr hi

/-! ## Characters -/

theorem encode_of_mem_charTable : ∀ row ∈ charTable, encode row.2 = .char row.1 := by decide

theorem mem_charTable_of_decodeChar {c : CharCode} {i : Instr} (h : decodeChar c = .ok i) : (c, i) ∈ charTable := by
  unfold decodeChar at h
  split at h
  · next row hrow =>
    cases h
    have hc : row.1 = c := by simpa using List.find?_some hrow
    exact hc ▸ List.mem_of_find?_eq_some hrow
  · cases h

/-- A character decodes to the instruction whose code it is (R81). -/
theorem decodeChar_eq_ok {c : CharCode} {i : Instr} : decodeChar c = .ok i ↔ encode i = .char c := by
  constructor
  · intro h
    exact encode_of_mem_charTable _ (mem_charTable_of_decodeChar h)
  · intro h
    obtain ⟨c', hcode, hdecode⟩ | ⟨v, gs, rfl⟩ | ⟨y, v, n, hi⟩ | ⟨y, v, n, hi⟩ := instr_cases i
    · cases hcode.symm.trans h
      exact hdecode
    · cases h
    · cases (encode_of_opLInstr hi).symm.trans h
    · cases (encode_of_opCInstr hi).symm.trans h

/-! ## Packets -/

theorem takeField_eq_ok {w : Nat} {bs rest : List Bit} {v : BitVec w} :
    takeField w bs = .ok (v, rest) ↔ bs = fieldBits v ++ rest :=
  ⟨takeField_ok, fun h => h ▸ takeField_fieldBits v rest⟩

theorem orLiteralType_eq_ok {o : Option Instr} {bs rest : List Bit} {i : Instr} :
    orLiteralType o bs = .ok (i, rest) ↔ o = some i ∧ bs = rest :=
  ⟨orLiteralType_ok, by rintro ⟨rfl, rfl⟩; rfl⟩

theorem decodeOpL_eq_ok {v : Version} {y : TypeId} {bs rest : List Bit} {i : Instr} :
    decodeOpL v y bs = .ok (i, rest) ↔ ∃ n, opLInstr y v n = some i ∧ bs = fieldBits n ++ rest := by
  unfold decodeOpL
  constructor
  · intro h
    split at h
    · next n tail hn =>
      obtain ⟨hi, rfl⟩ := orLiteralType_eq_ok.1 h
      exact ⟨n, hi, takeField_eq_ok.1 hn⟩
    · cases h
  · rintro ⟨n, hi, rfl⟩
    simp [orLiteralType_eq_ok, hi]

theorem decodeOpC_eq_ok {v : Version} {y : TypeId} {bs rest : List Bit} {i : Instr} :
    decodeOpC v y bs = .ok (i, rest) ↔ ∃ c, opCInstr y v c = some i ∧ bs = fieldBits c ++ rest := by
  unfold decodeOpC
  constructor
  · intro h
    split at h
    · next c tail hc =>
      obtain ⟨hi, rfl⟩ := orLiteralType_eq_ok.1 h
      exact ⟨c, hi, takeField_eq_ok.1 hc⟩
    · cases h
  · rintro ⟨c, hi, rfl⟩
    simp [orLiteralType_eq_ok, hi]

/-- The bit after an operator's header selects the form, and the field of that form follows (R86). -/
theorem decodeOperator_eq_ok {v : Version} {y : TypeId} {bs rest : List Bit} {i : Instr} :
    decodeOperator v y bs = .ok (i, rest) ↔
      (∃ n, opLInstr y v n = some i ∧ bs = false :: (fieldBits n ++ rest)) ∨
      (∃ c, opCInstr y v c = some i ∧ bs = true :: (fieldBits c ++ rest)) := by
  have take (b : Bit) (tail : List Bit) : takeField 1 (b :: tail) = .ok (fieldOf 1 [b], tail) := rfl
  cases bs with
  | nil => simp [decodeOperator, takeField]
  | cons b tail =>
    cases b with
    | false => simp [decodeOperator, take, show fieldOf 1 [false] = 0 from rfl, decodeOpL_eq_ok]
    | true => simp [decodeOperator, take, show fieldOf 1 [true] = 1 from rfl, decodeOpC_eq_ok]

/-- A group with flag 0 is a literal's last (R84). -/
theorem decodeGroups_last (g : Nibble) (tail : List Bit) :
    decodeGroups (false :: (fieldBits g ++ tail)) = .ok ([g], tail) := by
  simpa [decodeGroups, fieldBits, bitsOf] using fieldOf_fieldBits g

/-- A group with flag 1 stands in front of a literal's other groups (R84). -/
theorem decodeGroups_more (g : Nibble) {tail rest : List Bit} {gs : List Nibble}
    (h : decodeGroups tail = .ok (gs, rest)) :
    decodeGroups (true :: (fieldBits g ++ tail)) = .ok (g :: gs, rest) := by
  simpa [decodeGroups, fieldBits, bitsOf, h] using fieldOf_fieldBits g

theorem groupBits_cons (g : Nibble) {gs : List Nibble} (h : gs ≠ []) :
    groupBits (g :: gs) = true :: (fieldBits g ++ groupBits gs) := by
  cases gs with
  | nil => exact absurd rfl h
  | cons g' gs => rfl

theorem decodeGroups_groupBits (gs : List Nibble) (rest : List Bit) (h : gs ≠ []) :
    decodeGroups (groupBits gs ++ rest) = .ok (gs, rest) := by
  induction gs with
  | nil => exact absurd rfl h
  | cons g gs ih =>
    by_cases hgs : gs = []
    · subst hgs
      exact decodeGroups_last g rest
    · simpa [groupBits_cons g hgs] using decodeGroups_more g (ih hgs)

/-- The groups that are decoded are exactly those whose bits stand at the front (R84). -/
theorem decodeGroups_eq_ok {bs rest : List Bit} {gs : List Nibble} :
    decodeGroups bs = .ok (gs, rest) ↔ gs ≠ [] ∧ bs = groupBits gs ++ rest := by
  constructor
  · intro h
    refine ⟨decodeGroups_ne_nil h, ?_⟩
    have payload (b3 b2 b1 b0 : Bit) : fieldBits (fieldOf 4 [b3, b2, b1, b0]) = [b3, b2, b1, b0] :=
      fieldBits_fieldOf _ rfl
    induction bs using decodeGroups.induct generalizing gs with
    | case1 b3 b2 b1 b0 tail gs' rest' htail ih =>
      simp only [decodeGroups, if_true, htail] at h
      cases h
      rw [groupBits_cons _ (decodeGroups_ne_nil htail), payload, ih htail]
      simp
    | case2 b3 b2 b1 b0 tail e htail =>
      simp [decodeGroups, htail] at h
    | case3 flag b3 b2 b1 b0 tail hflag =>
      simp only [decodeGroups, hflag] at h
      cases h
      rw [groupBits, payload, Bool.eq_false_iff.2 hflag]
      rfl
    | case4 => cases h
    | case5 b tail hshort =>
      rw [decodeGroups] at h
      · cases h
      · exact hshort
  · rintro ⟨hgs, rfl⟩
    exact decodeGroups_groupBits gs rest hgs

theorem decodeLiteral_eq_ok {v : Version} {bs rest : List Bit} {i : Instr} :
    decodeLiteral v bs = .ok (i, rest) ↔ ∃ gs, i = .lit v gs ∧ gs ≠ [] ∧ bs = groupBits gs ++ rest := by
  unfold decodeLiteral
  constructor
  · intro h
    split at h
    · next gs tail hgs =>
      cases h
      exact ⟨gs, rfl, decodeGroups_eq_ok.1 hgs⟩
    · cases h
  · rintro ⟨gs, rfl, hgs⟩
    rw [decodeGroups_eq_ok.2 hgs]

theorem decodeBits_header (v : Version) (y : TypeId) (tail : List Bit) :
    decodeBits (headerBits v y ++ tail) = if y = 4 then decodeLiteral v tail else decodeOperator v y tail := by
  simp [decodeBits, headerBits]

/-- The packet that is decoded is exactly the well-formed instruction whose code stands at the front (R83 to R90). -/
theorem decodeBits_eq_ok {bs rest : List Bit} {i : Instr} :
    decodeBits bs = .ok (i, rest) ↔ i.wellFormed = true ∧ ∃ front, encode i = .bits front ∧ bs = front ++ rest := by
  constructor
  · intro h
    obtain ⟨v, y, tail, rfl, ⟨rfl, hlit⟩ | ⟨-, hop⟩⟩ := decodeBits_ok h
    · obtain ⟨gs, rfl, hgs, rfl⟩ := decodeLiteral_eq_ok.1 hlit
      exact ⟨wellFormed_lit.2 hgs, litBits v gs, rfl, by simp [litBits, headerBits]⟩
    · obtain ⟨n, hi, rfl⟩ | ⟨c, hi, rfl⟩ := decodeOperator_eq_ok.1 hop
      · obtain ⟨-, hwf, hcode⟩ := opLInstr_eq_some hi
        exact ⟨hwf, opLBits y v n, hcode, by simp [opLBits, headerBits]⟩
      · obtain ⟨-, hwf, hcode⟩ := opCInstr_eq_some hi
        exact ⟨hwf, opCBits y v c, hcode, by simp [opCBits, headerBits]⟩
  · rintro ⟨hwf, front, hcode, rfl⟩
    obtain ⟨v, gs, rfl, rfl⟩ | ⟨y, v, n, hi, rfl⟩ | ⟨y, v, c, hi, rfl⟩ := encode_eq_bits.1 hcode
    · rw [litBits, List.append_assoc, decodeBits_header, if_pos rfl]
      exact decodeLiteral_eq_ok.2 ⟨gs, rfl, wellFormed_lit.1 hwf, rfl⟩
    · obtain ⟨hy, -, -⟩ := opLInstr_eq_some hi
      rw [opLBits, List.append_assoc, decodeBits_header, if_neg hy]
      exact decodeOperator_eq_ok.2 (.inl ⟨n, hi, rfl⟩)
    · obtain ⟨hy, -, -⟩ := opCInstr_eq_some hi
      rw [opCBits, List.append_assoc, decodeBits_header, if_neg hy]
      exact decodeOperator_eq_ok.2 (.inr ⟨c, hi, rfl⟩)

/-! ## The round trip -/

/-- Settles O1: an instruction's code is a character or a bit sequence, and what decodes it is `encode` read backwards. -/
theorem decodeOfEncodeIsTheInstruction : Obligations.DecodeOfEncodeIsTheInstruction := by
  have hfront (i : Instr) (bs rest : List Bit) (hwf : i.wellFormed = true) (hcode : encode i = .bits bs) :
      decodeBits (bs ++ rest) = .ok (i, rest) := decodeBits_eq_ok.2 ⟨hwf, bs, hcode, rfl⟩
  refine ⟨fun i hwf => ?_, hfront⟩
  cases hcode : encode i with
  | char c => simp [decode, decodeChar_eq_ok.2 hcode]
  | bits bs => simpa [decode] using hfront i bs [] hwf hcode

/-- Settles O2: the same two equivalences, from the decoder to the encoder. -/
theorem decodedCodeIsTheEncoding : Obligations.DecodedCodeIsTheEncoding := by
  refine ⟨fun c i h => ?_, fun bs rest i h => decodeBits_eq_ok.1 h⟩
  have hcode := decodeChar_eq_ok.1 h
  exact ⟨hcode, wellFormed_of_encode_char hcode⟩

/-- Settles O3: closed facts, each code run through the decoder. -/
theorem writtenOutCodesDecode : Obligations.WrittenOutCodesDecode := by
  refine ⟨?_, ?_, ?_, ?_, ?_⟩ <;> decide

/-! ## The 22 hex digits (R81, R110) -/

/-- The codes of the 22 hex digits (R81). -/
def IsHexDigit (c : CharCode) : Prop :=
  (0x30 ≤ c.toNat ∧ c.toNat ≤ 0x39) ∨ (0x41 ≤ c.toNat ∧ c.toNat ≤ 0x46) ∨ (0x61 ≤ c.toNat ∧ c.toNat ≤ 0x66)

theorem mem_codes_charTable {c : CharCode} : c ∈ charTable.map Prod.fst ↔ IsHexDigit c := by
  simp only [charTable, List.map_cons, List.map_nil, List.mem_cons, List.not_mem_nil, or_false, ← BitVec.toNat_inj,
    BitVec.reduceToNat, IsHexDigit]
  omega

theorem exists_decodeChar_eq_ok {c : CharCode} : (∃ i, decodeChar c = .ok i) ↔ IsHexDigit c := by
  rw [← mem_codes_charTable]
  constructor
  · rintro ⟨i, h⟩
    exact List.mem_map_of_mem (mem_charTable_of_decodeChar h)
  · intro h
    obtain ⟨row, hrow, rfl⟩ := List.mem_map.1 h
    exact ⟨row.2, decodeChar_eq_ok.2 (encode_of_mem_charTable row hrow)⟩

theorem exists_hexVal_eq_some {c : CharCode} : (∃ v, hexVal c = some v) ↔ IsHexDigit c := by
  unfold hexVal IsHexDigit
  split_ifs <;> simp <;> omega

theorem hexVal_upper {c : CharCode} (hlow : 0x41 ≤ c.toNat) (hhigh : c.toNat ≤ 0x46) :
    hexVal c = some (BitVec.ofNat 4 (c.toNat - 0x41 + 10)) := by
  rw [hexVal, if_neg (by omega), if_pos (by omega)]

theorem hexVal_lower {c : CharCode} (hlow : 0x61 ≤ c.toNat) (hhigh : c.toNat ≤ 0x66) :
    hexVal c = some (BitVec.ofNat 4 (c.toNat - 0x61 + 10)) := by
  rw [hexVal, if_neg (by omega), if_neg (by omega), if_pos (by omega)]

/-- Settles O4: both the decoder's table and HEXVAL cover exactly the three ranges, and a lower-case code lies 0x20 above
the upper-case one. -/
theorem validCharactersAreTheHexDigits : Obligations.ValidCharactersAreTheHexDigits := by
  refine ⟨fun c => exists_decodeChar_eq_ok, fun c => exists_decodeChar_eq_ok.trans exists_hexVal_eq_some.symm,
    fun c hlow hhigh => ?_⟩
  have hcode : (c + 0x20).toNat = c.toNat + 0x20 := by
    rw [BitVec.toNat_add]
    exact Nat.mod_eq_of_lt (by simp; omega)
  rw [hexVal_upper hlow hhigh, hexVal_lower (by omega) (by omega), hcode, Nat.add_sub_add_right c.toNat 0x20 0x41]

end Sys2Proof.Machine
end

section
/-! SUPPORT. What the meanings do, state rule by state rule: a character stores its digit (R113), and an operator reads
the flag and the field of its form and opens a frame (R139, R140, R142). -/

namespace Sys2Proof.Machine

variable {s : State}

/-! ## A character (R113) -/

theorem hexDigit_eq {c : CharCode} (v : Nibble) (hst : s.st = .loading) (hc : s.input[s.ci]? = some c) :
    hexDigit c v s = .next (takeDigit v s) := if_pos ⟨hst, hc⟩

/-- Settles O7: each of the 22 meanings is the Loading step of its own character and digit. -/
theorem characterStoresItsDigit : Obligations.CharacterStoresItsDigit := by
  intro i s hformat
  obtain ⟨c, v, hcode, hv, -, hexec⟩ := exec_hexChar i hformat
  refine ⟨c, v, hcode, hv, fun hst hc => ?_⟩
  rw [hexec, hexDigit_eq v hst hc]
  rfl

/-! ## An operator's flag and field (R139, R140, R142) -/

/-- The states between an operator's header and its frame. -/
def readsPrefix (x : ParserState) : Prop :=
  x = .readingLengthTypeFlag ∨ x = .readingTotalLengthPrefix ∨ x = .readingSubpacketCount

theorem isCurrent_of_readsPrefix (h : readsPrefix s.st) : isCurrent s.ver s.tid s = true := by
  rcases h with h | h | h <;> simp [isCurrent, h]

/-- The OP.L operator of the packet being read acts with the registers VER and TID and its own length. -/
theorem exec_opL_current {i : Instr} (hformat : i.format = .opL) (hver : i.version = some s.ver)
    (htid : i.typeId = some s.tid) :
    ∃ n : LengthField, i.limit = some n.toNat ∧ exec i = opLTransition s.tid s.ver n := by
  obtain ⟨y, v, n, hy, hv, hlimit, -, -, hexec⟩ := exec_opL i hformat
  cases hy.symm.trans htid
  cases hv.symm.trans hver
  exact ⟨n, hlimit, hexec⟩

/-- The OP.C operator of the packet being read acts with the registers VER and TID and its own count. -/
theorem exec_opC_current {i : Instr} (hformat : i.format = .opC) (hver : i.version = some s.ver)
    (htid : i.typeId = some s.tid) :
    ∃ c : CountField, i.limit = some c.toNat ∧ exec i = opCTransition s.tid s.ver c := by
  obtain ⟨y, v, c, hy, hv, hlimit, -, -, hexec⟩ := exec_opC i hformat
  cases hy.symm.trans htid
  cases hv.symm.trans hver
  exact ⟨c, hlimit, hexec⟩

theorem opLTransition_readingLengthTypeFlag (n : LengthField) (hst : s.st = .readingLengthTypeFlag) :
    opLTransition s.tid s.ver n s = readingLengthTypeFlag (some 0) s := by
  rw [opLTransition, if_pos (isCurrent_of_readsPrefix (.inl hst)), hst]
  rfl

theorem opCTransition_readingLengthTypeFlag (c : CountField) (hst : s.st = .readingLengthTypeFlag) :
    opCTransition s.tid s.ver c s = readingLengthTypeFlag (some 1) s := by
  rw [opCTransition, if_pos (isCurrent_of_readsPrefix (.inl hst)), hst]
  rfl

theorem opLTransition_readingTotalLengthPrefix (n : LengthField) (hst : s.st = .readingTotalLengthPrefix) :
    opLTransition s.tid s.ver n s = readingTotalLengthPrefix (some n) s := by
  rw [opLTransition, if_pos (isCurrent_of_readsPrefix (.inr (.inl hst))), hst]

theorem opCTransition_readingSubpacketCount (c : CountField) (hst : s.st = .readingSubpacketCount) :
    opCTransition s.tid s.ver c s = readingSubpacketCount (some c) s := by
  rw [opCTransition, if_pos (isCurrent_of_readsPrefix (.inr (.inr hst))), hst]

theorem readingLengthTypeFlag_eq (f : Flag) (h : 1 ≤ remaining s) :
    readingLengthTypeFlag (some f) s = .next (((s.setPos (s.pos + 1)).setLtid f).setSt (afterLengthType f)) :=
  field_enough h

theorem readingTotalLengthPrefix_eq (n : LengthField) (h : 15 ≤ remaining s) :
    readingTotalLengthPrefix (some n) s = .next (afterOpen .byLength 15 n.toNat s) := field_enough h

theorem readingSubpacketCount_eq (c : CountField) (h : 11 ≤ remaining s) :
    readingSubpacketCount (some c) s = .next (afterOpen .byCount 11 c.toNat s) := field_enough h

/-- Settles O17: the form fixes the flag the operator delivers, and the flag the state that reads its field. -/
theorem lengthTypeFlagSelectsTheForm : Obligations.LengthTypeFlagSelectsTheForm := by
  intro i s hver htid hst hroom
  refine ⟨fun hformat => ?_, fun hformat => ?_⟩
  · obtain ⟨n, -, hexec⟩ := exec_opL_current hformat hver htid
    rw [hexec, opLTransition_readingLengthTypeFlag n hst, readingLengthTypeFlag_eq 0 hroom]
    rfl
  · obtain ⟨c, -, hexec⟩ := exec_opC_current hformat hver htid
    rw [hexec, opCTransition_readingLengthTypeFlag c hst, readingLengthTypeFlag_eq 1 hroom]
    rfl

/-- Settles O18: the operand the operator delivers is its declared length. -/
theorem totalLengthOpensAFrame : Obligations.TotalLengthOpensAFrame := by
  intro i n s hformat hlimit hver htid hst hroom
  obtain ⟨m, hm, hexec⟩ := exec_opL_current hformat hver htid
  cases hlimit.symm.trans hm
  rw [hexec, opLTransition_readingTotalLengthPrefix m hst, readingTotalLengthPrefix_eq m hroom]
  rfl

/-- Settles O19: the operand the operator delivers is its declared count. -/
theorem subpacketCountOpensAFrame : Obligations.SubpacketCountOpensAFrame := by
  intro i n s hformat hlimit hver htid hst hroom
  obtain ⟨m, hm, hexec⟩ := exec_opC_current hformat hver htid
  cases hlimit.symm.trans hm
  rw [hexec, opCTransition_readingSubpacketCount m hst, readingSubpacketCount_eq m hroom]
  rfl

end Sys2Proof.Machine
end

section
/-! SUPPORT. A whole literal (R85, R90, R138): its groups are folded into ACC one step each, first group most significant,
so the literal's value is the concatenation of the payloads. -/

namespace Sys2Proof.Machine

variable {s : State}

/-! ## The bits of a literal, field by field -/

/-- A field at the front of the bits that are read: it is in BITMEM, and the other bits stand after it. -/
theorem memRead_of_readBits {w k p : Nat} {m : Memory} {v : BitVec w} {bs : List Bit}
    (h : Memory.readBits m p (w + k) = some (fieldBits v ++ bs)) :
    memRead w m p = some v ∧ Memory.readBits m (p + w) k = some bs := by
  rw [Memory.readBits_add] at h
  split at h
  · next as bs' has hbs' =>
    obtain ⟨rfl, rfl⟩ := List.append_inj (Option.some.inj h) (by simp [Memory.length_readBits has])
    exact ⟨memRead_eq_some.2 has, hbs'⟩
  · cases h

theorem groupBits_eq_fields (g : Nibble) (gs : List Nibble) :
    groupBits (g :: gs) = fieldBits (continueFlag gs) ++ (fieldBits g ++ groupBits gs) := by
  cases gs <;> simp [groupBits, continueFlag, fieldBits, bitsOf]

theorem literalValue_cons (g : Nibble) (gs : List Nibble) :
    literalValue (g :: gs) = g.toNat * 16 ^ gs.length + literalValue gs := by
  have hlen : (gs.flatMap fieldBits).length = 4 * gs.length := by
    induction gs with
    | nil => rfl
    | cons g gs ih => simp only [List.flatMap_cons, List.length_append, ih, length_fieldBits, List.length_cons]; omega
  rw [literalValue, List.flatMap_cons, be_append, be_fieldBits, hlen, pow_mul]
  rfl

/-! ## Its steps -/

theorem afterHeader_literal (v : Version) :
    afterHeader v 4 s =
      { s with pos := s.pos + 3 + 3, ver := v, tid := 4, acc := 0, st := .readingLiteralGroup } := by
  simp only [afterHeader, if_true, State.setPos, State.setVer, State.setTid, State.setAcc, State.setSt]

theorem run_zero : run 0 s = .next s := rfl

theorem step_readingHeader {v : Version} {y : TypeId} (hrequest : s.request = none) (hst : s.st = .readingHeader)
    (hroom : 6 ≤ remaining s) (hv : memRead 3 s.bitmem s.pos = some v)
    (hy : memRead 3 s.bitmem (s.pos + 3) = some y) : step s = .next (afterHeader v y s) := by
  have hroom' : 3 ≤ remaining ((s.setPos (s.pos + 3)).setVer v) := by
    simp only [remaining, State.setVer_len, State.setPos_len, State.setVer_pos, State.setPos_pos] at hroom ⊢
    omega
  rw [step_eq_sequencer hrequest, sequencer, hst]
  dsimp only
  rw [readingHeader, field_read (by omega) hv, field_read hroom' hy, afterHeader]
  split <;> rfl

theorem step_readingLiteralGroup {f : Flag} {g : Nibble} (hrequest : s.request = none)
    (hst : s.st = .readingLiteralGroup) (hroom : 5 ≤ remaining s) (hf : memRead 1 s.bitmem s.pos = some f)
    (hg : memRead 4 s.bitmem (s.pos + 1) = some g) :
    step s = .next (foldGroup f g (((s.setPos (s.pos + 1)).setCflag f).setPos (s.pos + 1 + 4))) := by
  have hroom' : 4 ≤ remaining ((s.setPos (s.pos + 1)).setCflag f) := by
    simp only [remaining, State.setCflag_len, State.setPos_len, State.setCflag_pos, State.setPos_pos] at hroom ⊢
    omega
  rw [step_eq_sequencer hrequest, sequencer, hst]
  dsimp only
  rw [readingLiteralGroup, field_read (by omega) hf, field_read hroom' hg]
  rfl

/-- The state in which a literal of value x is complete and the cursor stands at q. -/
def literalDone (q x : Nat) (s : State) : State :=
  { s with pos := q, cflag := 0, acc := x, ret := some (.literal s.ver s.tid x), st := .done }

/-- The state after a group that is not a literal's last (R138). -/
def afterGroup (g : Nibble) (s : State) : State :=
  { s with pos := s.pos + 1 + 4, cflag := 1, acc := s.acc * 16 + g.toNat, st := .readingLiteralGroup }

theorem foldGroup_last (g : Nibble) :
    foldGroup 0 g (((s.setPos (s.pos + 1)).setCflag 0).setPos (s.pos + 1 + 4)) =
      literalDone (s.pos + 1 + 4) (s.acc * 16 + g.toNat) s := by
  simp [foldGroup, continues, literalDone, State.setPos, State.setCflag, State.setAcc, State.setRet, State.setSt]

theorem foldGroup_more (g : Nibble) :
    foldGroup 1 g (((s.setPos (s.pos + 1)).setCflag 1).setPos (s.pos + 1 + 4)) = afterGroup g s := by
  simp [foldGroup, continues, afterGroup, State.setPos, State.setCflag, State.setAcc, State.setSt]

@[simp] theorem afterGroup_pos (g : Nibble) : (afterGroup g s).pos = s.pos + 1 + 4 := rfl
@[simp] theorem afterGroup_len (g : Nibble) : (afterGroup g s).len = s.len := rfl
@[simp] theorem afterGroup_acc (g : Nibble) : (afterGroup g s).acc = s.acc * 16 + g.toNat := rfl

theorem literalDone_afterGroup (g : Nibble) (q x : Nat) :
    literalDone q x (afterGroup g s) = literalDone q x s := by
  unfold literalDone afterGroup
  rfl

/-- A literal's groups from BITMEM: one step each, and ACC ends as their value behind what it held before. -/
theorem run_literalGroups {gs : List Nibble} (hgs : gs ≠ []) (hrequest : s.request = none)
    (hst : s.st = .readingLiteralGroup) (hroom : 5 * gs.length ≤ remaining s)
    (hbits : Memory.readBits s.bitmem s.pos (5 * gs.length) = some (groupBits gs)) :
    run gs.length s =
      .next (literalDone (s.pos + 5 * gs.length) (s.acc * 16 ^ gs.length + literalValue gs) s) := by
  induction gs generalizing s with
  | nil => exact absurd rfl hgs
  | cons g gs ih =>
    rw [List.length_cons] at hroom hbits ⊢
    rw [groupBits_eq_fields, show 5 * (gs.length + 1) = 1 + (4 + 5 * gs.length) by omega] at hbits
    obtain ⟨hf, hbits⟩ := memRead_of_readBits hbits
    obtain ⟨hg, hbits⟩ := memRead_of_readBits hbits
    rw [run_succ (step_readingLiteralGroup hrequest hst (by omega) hf hg)]
    have hacc : s.acc * 16 ^ (gs.length + 1) + literalValue (g :: gs) =
        (s.acc * 16 + g.toNat) * 16 ^ gs.length + literalValue gs := by
      rw [literalValue_cons]
      ring
    have hpos : s.pos + 5 * (gs.length + 1) = s.pos + 1 + 4 + 5 * gs.length := by omega
    rw [hacc, hpos]
    by_cases hlast : gs = []
    · subst hlast
      rw [show continueFlag [] = 0 from rfl, foldGroup_last, List.length_nil, run_zero]
      simp [literalValue]
    · have hroom' : 5 * gs.length ≤ remaining (afterGroup g s) := by
        simp only [remaining, afterGroup_pos, afterGroup_len] at hroom ⊢
        omega
      rw [continueFlag, if_neg (by simpa using hlast), foldGroup_more,
        ih (s := afterGroup g s) hlast hrequest rfl hroom' hbits]
      simp only [afterGroup_pos, afterGroup_acc, literalDone_afterGroup]

/-- Settles O16: the header's step, then the steps of the groups. -/
theorem literalRunBuildsItsValue : Obligations.LiteralRunBuildsItsValue := by
  intro v gs s hgs hrequest hst hbits hroom
  have hrem : 6 + 5 * gs.length ≤ remaining s := by rw [remaining]; omega
  rw [litBits, headerBits, List.append_assoc,
    show 6 + 5 * gs.length = 3 + (3 + 5 * gs.length) by omega] at hbits
  obtain ⟨hv, hbits⟩ := memRead_of_readBits hbits
  obtain ⟨hy, hbits⟩ := memRead_of_readBits hbits
  rw [run_succ (step_readingHeader hrequest hst (by omega) hv hy), afterHeader_literal]
  refine (run_literalGroups hgs ?_ ?_ ?_ ?_).trans ?_
  · exact hrequest
  · rfl
  · simp only [remaining] at hrem ⊢
    omega
  · exact hbits
  · simp only [literalDone, Nat.zero_mul, Nat.zero_add,
      show s.pos + 3 + 3 + 5 * gs.length = s.pos + (6 + 5 * gs.length) by omega]

end Sys2Proof.Machine
end

section
/-! SUPPORT. The reference function reads no bit at or after the position it returns (R93, R136, R148): on any other bit
sequence with the same bits up to there it returns the same. -/

namespace Sys2Proof.Machine

variable {bs bs' : List Bit} {p q : Nat}

/-- bs' has the first q bits, and they are those of bs. -/
def SameUpTo (q : Nat) (bs bs' : List Bit) : Prop := bs'.take q = bs.take q ∧ q ≤ bs'.length

theorem SameUpTo.mono {r : Nat} (h : SameUpTo r bs bs') (hq : q ≤ r) : SameUpTo q bs bs' := by
  obtain ⟨htake, hlen⟩ := h
  refine ⟨?_, hq.trans hlen⟩
  have := congrArg (List.take q) htake
  simpa [List.take_take, hq] using this

theorem sameUpTo_take_append (junk : List Bit) (hq : q ≤ bs.length) : SameUpTo q bs (bs.take q ++ junk) := by
  constructor
  · rw [List.take_append_of_le_length (by simp [hq]), List.take_take, Nat.min_self]
  · simp [hq]

/-- A computation that starts at p on bs: where it returns a position, it went forward, and it returns the same on every
bit sequence with the same bits up to that position. -/
def ReadsOnlyBehind (bs : List Bit) (p : Nat) {α : Type} (f : List Bit → Ref (α × Nat)) : Prop :=
  ∀ a q, f bs = .ok (a, q) → p ≤ q ∧ ∀ bs', SameUpTo q bs bs' → f bs' = .ok (a, q)

section
variable {α β : Type}

theorem ReadsOnlyBehind.ok (a : α) : ReadsOnlyBehind bs p fun _ => .ok (a, p) := by
  intro a' q h
  cases h
  exact ⟨le_rfl, fun _ _ => rfl⟩

theorem ReadsOnlyBehind.raised (f : FaultRecord) : ReadsOnlyBehind (α := α) bs p fun _ => .raised f := by
  intro a q h
  cases h

theorem ReadsOnlyBehind.outOfFuel : ReadsOnlyBehind (α := α) bs p fun _ => .outOfFuel := by
  intro a q h
  cases h

theorem ReadsOnlyBehind.ite {c : Prop} [Decidable c] {f g : List Bit → Ref (α × Nat)}
    (hf : ReadsOnlyBehind bs p f) (hg : ReadsOnlyBehind bs p g) :
    ReadsOnlyBehind bs p fun bs => if c then f bs else g bs := by
  by_cases hc : c
  · simpa only [if_pos hc] using hf
  · simpa only [if_neg hc] using hg

/-- What a computation goes on with starts where it stopped. -/
theorem ReadsOnlyBehind.bind {f : List Bit → Ref (α × Nat)} {k : List Bit → α × Nat → Ref (β × Nat)}
    (hf : ReadsOnlyBehind bs p f) (hk : ∀ a q, ReadsOnlyBehind bs q fun bs => k bs (a, q)) :
    ReadsOnlyBehind bs p fun bs => (f bs).bind (k bs) := by
  intro b r h
  obtain ⟨⟨a, q⟩, ha, hb⟩ := Ref.bind_eq_ok.1 h
  obtain ⟨hpq, hsame⟩ := hf a q ha
  obtain ⟨hqr, hsame'⟩ := hk a q b r hb
  exact ⟨hpq.trans hqr, fun bs' hbs => Ref.bind_eq_ok.2 ⟨(a, q), hsame bs' (hbs.mono hqr), hsame' bs' hbs⟩⟩

end

theorem readsOnlyBehind_rd (w : Nat) : ReadsOnlyBehind bs p fun bs => rd bs p w := by
  intro v q h
  obtain ⟨-, hv⟩ := rd_eq_ok.1 h
  cases hv
  refine ⟨by omega, fun bs' ⟨htake, hlen⟩ => rd_eq_ok.2 ⟨by omega, ?_⟩⟩
  rw [List.take_drop, List.take_drop, htake]

/-- The four functions of R136 under one recursion bound. -/
structure ParseReadsOnlyBehind (bs : List Bit) (fuel : Nat) : Prop where
  packet : ∀ p, ReadsOnlyBehind bs p fun bs => parsePacket bs fuel p
  groups : ∀ p acc, ReadsOnlyBehind bs p fun bs => litGroups bs fuel p acc
  length : ∀ p mark n kids, ReadsOnlyBehind bs p fun bs => byLength bs fuel p mark n kids
  count : ∀ p c kids, ReadsOnlyBehind bs p fun bs => byCount bs fuel p c kids

theorem parseReadsOnlyBehind_zero : ParseReadsOnlyBehind bs 0 :=
  ⟨fun _ => .outOfFuel, fun _ _ => .outOfFuel, fun _ _ _ _ => .outOfFuel, fun _ _ _ => .outOfFuel⟩

section
variable {fuel : Nat} (ih : ParseReadsOnlyBehind bs fuel)
include ih

theorem ParseReadsOnlyBehind.packet_succ (p : Nat) : ReadsOnlyBehind bs p fun bs => parsePacket bs (fuel + 1) p := by
  simp only [parsePacket]
  refine (readsOnlyBehind_rd 3).bind fun v p1 => (readsOnlyBehind_rd 3).bind fun y p2 => ?_
  refine .ite ((ih.groups p2 0).bind fun x p3 => .ok _) ?_
  refine (readsOnlyBehind_rd 1).bind fun i p3 => .ite ?_ ?_
  · exact (readsOnlyBehind_rd 15).bind fun n p4 => (ih.length p4 p4 _ _).bind fun kids p5 => .ok _
  · exact (readsOnlyBehind_rd 11).bind fun c p4 => (ih.count p4 _ _).bind fun kids p5 => .ok _

theorem ParseReadsOnlyBehind.groups_succ (p acc : Nat) :
    ReadsOnlyBehind bs p fun bs => litGroups bs (fuel + 1) p acc := by
  simp only [litGroups]
  exact (readsOnlyBehind_rd 1).bind fun f p1 => (readsOnlyBehind_rd 4).bind fun g p2 =>
    .ite (ih.groups p2 _) (.ok _)

theorem ParseReadsOnlyBehind.length_succ (p mark n : Nat) (kids : Packets) :
    ReadsOnlyBehind bs p fun bs => byLength bs (fuel + 1) p mark n kids := by
  simp only [byLength]
  exact .ite (.ok _) (.ite (.raised _) ((ih.packet p).bind fun k p' => ih.length p' mark n _))

theorem ParseReadsOnlyBehind.count_succ (p c : Nat) (kids : Packets) :
    ReadsOnlyBehind bs p fun bs => byCount bs (fuel + 1) p c kids := by
  simp only [byCount]
  exact .ite (.ok _) ((ih.packet p).bind fun k p' => ih.count p' c _)

end

theorem parseReadsOnlyBehind (bs : List Bit) (fuel : Nat) : ParseReadsOnlyBehind bs fuel := by
  induction fuel with
  | zero => exact parseReadsOnlyBehind_zero
  | succ fuel ih => exact ⟨ih.packet_succ, ih.groups_succ, ih.length_succ, ih.count_succ⟩

/-- Settles O55: PARSE_PACKET reads no bit at or after the position it returns. -/
theorem trailingBitsAreIgnored : Obligations.TrailingBitsAreIgnored := by
  intro bs junk fuel p q r h
  obtain ⟨-, hq, -⟩ := parsePacket_bounded bs fuel p q r h
  obtain ⟨-, hsame⟩ := (parseReadsOnlyBehind bs fuel).packet p r q h
  exact hsame _ (sameUpTo_take_append junk hq)

end Sys2Proof.Machine
end

section
/-! SUPPORT. Unit 1 and the step, as the statements name them: what DECODE answers for a line (R112, R114), what Loading
does with it (R113, R201), and which instruction a step runs (R137). -/

namespace Sys2Proof.Machine

variable {s : State}

/-! ## DECODE, character by character (R112) -/

theorem decodeFrom_cons_eq_ok {i : Nat} {c : CharCode} {cs : List CharCode} {bs : List Bit} :
    decodeFrom i (c :: cs) = .ok bs ↔
      ∃ v bs', hexVal c = some v ∧ decodeFrom (i + 1) cs = .ok bs' ∧ bs = expand v ++ bs' := by
  cases hv : hexVal c with
  | none => simp [decodeFrom, hv]
  | some v => cases hrest : decodeFrom (i + 1) cs <;> simp [decodeFrom, hv, hrest, eq_comm]

theorem decodeFrom_cons_eq_error {i : Nat} {c : CharCode} {cs : List CharCode} {f : FaultRecord} :
    decodeFrom i (c :: cs) = .error f ↔
      (hexVal c = none ∧ f = .malformedHex c i) ∨ ∃ v, hexVal c = some v ∧ decodeFrom (i + 1) cs = .error f := by
  cases hv : hexVal c with
  | none => simp [decodeFrom, hv, eq_comm]
  | some v => cases hrest : decodeFrom (i + 1) cs <;> simp [decodeFrom, hv, hrest, eq_comm]

/-! ## The bits of a decoded line (R114) -/

/-- Bit k is bit k mod 4 of the digit at index k/4: the first digit's bits stand before the others', which lie four
further on. -/
theorem getElem?_of_decodeFrom_ok {i k : Nat} {cs : List CharCode} {bs : List Bit} (h : decodeFrom i cs = .ok bs)
    (hk : k < bs.length) :
    ∃ c v, cs[k / 4]? = some c ∧ hexVal c = some v ∧ bs[k]? = (expand v)[k % 4]? := by
  induction cs generalizing i k bs with
  | nil => cases h; cases hk
  | cons c cs ih =>
    obtain ⟨v, bs', hv, hrest, rfl⟩ := decodeFrom_cons_eq_ok.1 h
    rw [List.length_append, length_expand] at hk
    obtain hfirst | hlater := Nat.lt_or_ge k 4
    · refine ⟨c, v, by rw [Nat.div_eq_of_lt hfirst]; rfl, hv, ?_⟩
      rw [Nat.mod_eq_of_lt hfirst, List.getElem?_append_left (by simpa using hfirst)]
    · obtain ⟨j, rfl⟩ := Nat.exists_eq_add_of_le' hlater
      rw [Nat.add_div_right j (by decide), Nat.add_mod_right, List.getElem?_cons_succ,
        List.getElem?_append_right (by simp), length_expand, Nat.add_sub_cancel]
      exact ih hrest (by omega)

/-- Settles O5: the length from the number of characters, the bits digit by digit. -/
theorem decodedLengthLaw : Obligations.DecodedLengthLaw := by
  intro chars bs h
  have hlen := length_of_decodeFrom_ok h
  refine ⟨hlen, by omega, ?_, fun k => getElem?_of_decodeFrom_ok h⟩
  rw [← List.length_eq_zero_iff]
  omega

/-! ## The leftmost invalid character (R112, D3, D4) -/

/-- The character at index i is c and invalid, and all before it are hex digits. -/
def LeftmostInvalid (cs : List CharCode) (i : Nat) (c : CharCode) : Prop :=
  cs[i]? = some c ∧ hexVal c = none ∧ ∀ j, j < i → ∃ d v, cs[j]? = some d ∧ hexVal d = some v

theorem not_leftmostInvalid_nil {i : Nat} {c : CharCode} : ¬ LeftmostInvalid [] i c := by simp [LeftmostInvalid]

theorem leftmostInvalid_zero {c d : CharCode} {cs : List CharCode} :
    LeftmostInvalid (c :: cs) 0 d ↔ c = d ∧ hexVal d = none := by simp [LeftmostInvalid]

theorem leftmostInvalid_succ {c d : CharCode} {cs : List CharCode} {i : Nat} :
    LeftmostInvalid (c :: cs) (i + 1) d ↔ (∃ v, hexVal c = some v) ∧ LeftmostInvalid cs i d := by
  constructor
  · rintro ⟨hd, hinvalid, hbefore⟩
    refine ⟨?_, hd, hinvalid, fun j hj => hbefore (j + 1) (Nat.succ_lt_succ hj)⟩
    obtain ⟨_, v, hc, hv⟩ := hbefore 0 i.succ_pos
    cases hc
    exact ⟨v, hv⟩
  · rintro ⟨⟨v, hv⟩, hd, hinvalid, hbefore⟩
    refine ⟨hd, hinvalid, fun j hj => ?_⟩
    cases j with
    | zero => exact ⟨c, v, rfl, hv⟩
    | succ j => exact hbefore j (Nat.lt_of_succ_lt_succ hj)

/-- DECODE from index k on fails with the leftmost invalid character of what it is given. -/
theorem decodeFrom_eq_error {k : Nat} {cs : List CharCode} {f : FaultRecord} :
    decodeFrom k cs = .error f ↔ ∃ i c, LeftmostInvalid cs i c ∧ f = .malformedHex c (k + i) := by
  induction cs generalizing k with
  | nil => simp [decodeFrom, not_leftmostInvalid_nil]
  | cons c cs ih =>
    rw [decodeFrom_cons_eq_error]
    constructor
    · rintro (⟨hinvalid, rfl⟩ | ⟨v, hv, hrest⟩)
      · exact ⟨0, c, leftmostInvalid_zero.2 ⟨rfl, hinvalid⟩, rfl⟩
      · obtain ⟨i, d, hleft, rfl⟩ := ih.1 hrest
        exact ⟨i + 1, d, leftmostInvalid_succ.2 ⟨⟨v, hv⟩, hleft⟩, by rw [Nat.add_right_comm, Nat.add_assoc]⟩
    · rintro ⟨_ | i, d, hleft, rfl⟩
      · obtain ⟨rfl, hinvalid⟩ := leftmostInvalid_zero.1 hleft
        exact .inl ⟨hinvalid, rfl⟩
      · obtain ⟨⟨v, hv⟩, hleft⟩ := leftmostInvalid_succ.1 hleft
        exact .inr ⟨v, hv, ih.2 ⟨i, d, hleft, by rw [Nat.add_right_comm, Nat.add_assoc]⟩⟩

/-- Settles O6: DECODE of a line is DECODE from index 0 on. -/
theorem leftmostInvalidCharacterIsReported : Obligations.LeftmostInvalidCharacterIsReported := by
  intro chars f
  rw [decodeLine, decodeFrom_eq_error]
  simp only [LeftmostInvalid, Nat.zero_add, and_assoc]

/-! ## Loading (R113, R201) -/

/-- Settles O10: Loading from START is Loading after no characters, and what it does with a line is said for any number
of characters already taken. -/
theorem loadingDecodesTheLine : Obligations.LoadingDecodesTheLine := by
  intro line
  refine ⟨fun bs h => run_loadingAt_ok (pre := []) (bs := []) rfl h, fun f h => ?_⟩
  obtain ⟨k, n, bs, hk, hrun⟩ := run_loadingAt_error (pre := []) (bs := []) rfl h
  exact ⟨k, _, hk, hrun, rfl, rfl, rfl, rfl, rfl⟩

theorem step_loading (hrequest : s.request = none) (hst : s.st = .loading) : step s = loadingStep s := by
  rw [step_eq_sequencer hrequest, sequencer, hst]

theorem loadingStep_invalid {c : CharCode} (hc : s.input[s.ci]? = some c) (hv : hexVal c = none) :
    loadingStep s = .next (raise (.malformedHex c s.ci) s) := by
  simp only [loadingStep, hc, hv]

theorem loadingStep_end (hend : s.input.length ≤ s.ci) : loadingStep s = .next (endOfLine s) := by
  simp only [loadingStep, List.getElem?_eq_none hend]

/-- Settles O9: the two branches of the Loading step that take no digit. -/
theorem loadingEndsOrFaults : Obligations.LoadingEndsOrFaults := by
  refine ⟨fun s c hrequest hst hc hv => ?_, fun s hrequest hst hend => ?_⟩
  · rw [step_loading hrequest hst, loadingStep_invalid hc hv]
    rfl
  · rw [step_loading hrequest hst, loadingStep_end hend]
    rfl

/-! ## The step (R113, R137 to R144, R157) -/

/-- Settles O33: the operands the decoder delivers are the fields at POS, so the instruction in progress does what the
state rule does (`exec_instrInProgress`). -/
theorem stepFollowsTheStateRules : Obligations.StepFollowsTheStateRules := fun _ hrequest => step_eq_sequencer hrequest

theorem step_eq_exec {i : Instr} (hrequest : s.request = none) (h : instrInProgress s = some i) :
    step s = exec i s := by
  simp only [step, hrequest, h]

theorem instrInProgress_readingHeader {i : Instr} {rest : List Bit} (hst : s.st = .readingHeader)
    (h : decodeBits (unread s) = .ok (i, rest)) : instrInProgress s = some i := by
  simp only [instrInProgress, hst, decode]
  exact accepted_eq_some.2 ⟨rest, h⟩

theorem instrInProgress_loading {i : Instr} {c : CharCode} (hst : s.st = .loading) (hc : s.input[s.ci]? = some c)
    (h : decodeChar c = .ok i) : instrInProgress s = some i := by
  simp only [instrInProgress, hst, fetchChar, hc, decode, h]
  exact accepted_eq_some.2 ⟨[], rfl⟩

/-- Settles O32: where a packet starts and in Loading, the instruction in progress is the one decoded there. -/
theorem stepRunsTheDecodedInstruction : Obligations.StepRunsTheDecodedInstruction := by
  refine ⟨fun s i hrequest hi => step_eq_exec hrequest hi, fun s i rest hrequest hst hdecode => ?_,
    fun s i c hrequest hst hc hdecode => ?_⟩
  · exact step_eq_exec hrequest (instrInProgress_readingHeader hst hdecode)
  · exact step_eq_exec hrequest (instrInProgress_loading hst hc hdecode)

end Sys2Proof.Machine
end

section
/-! SUPPORT. The cursor's operations as the statements name them (R122, R123, R126), and the steps in which the bits run
out (R202): the state each raise leaves, for a rule's first read and for its second. -/

namespace Sys2Proof.Machine

variable {s : State}

/-! ## READ_BITS and CONSUMED_SINCE (R122, R123, R126) -/

theorem eofRaised_eq (w : Nat) :
    eofRaised w s = { s with fault := some (.unexpectedEof w (s.len - s.pos) s.pos), st := .faulted } := rfl

/-- The empty field is in every memory. -/
theorem memRead_zero (m : Memory) (p : Nat) : memRead 0 m p = some 0 := rfl

/-- Settles O11: a read is short or has room; the empty one always has room and its field is in every memory. -/
theorem readBitsIsAllOrNothing : Obligations.ReadBitsIsAllOrNothing := by
  intro n s k
  refine ⟨fun hshort => ?_, fun hroom v hv => ?_, fun hzero => ?_⟩
  · rw [readBits, field_short hshort, eofRaised_eq]
  · exact field_read hroom hv
  · subst hzero
    exact field_read (Nat.zero_le _) (memRead_zero _ _)

/-- Settles O13: the two sides of the test of the mark against POS. -/
theorem consumedSinceAMark : Obligations.ConsumedSinceAMark :=
  fun _ _ _ => ⟨fun hmark => if_pos hmark, fun hahead => if_neg (Nat.not_le.2 hahead)⟩

/-! ## Truncated reads (R137 to R142, R202) -/

/-- The end-of-bits fault of a one-bit read always leaves 0 bits (R202). -/
theorem eofRaised_one (hshort : s.len - s.pos < 1) :
    eofRaised 1 s = { s with fault := some (.unexpectedEof 1 0 s.pos), st := .faulted } := by
  rw [eofRaised_eq, Nat.lt_one_iff.1 hshort]

theorem remaining_setPos_add (n : Nat) : remaining (s.setPos (s.pos + n)) = remaining s - n :=
  Nat.sub_add_eq _ _ _

/-- A header cut in its `type_id`: VER and POS keep what the first read did (R137, R202). -/
theorem readingHeader_short_typeId {v : Version} (hfirst : 3 ≤ remaining s) (hshort : remaining s < 6)
    (hv : memRead 3 s.bitmem s.pos = some v) :
    readingHeader none none s = .next { s with
      pos := s.pos + 3, ver := v, fault := some (.unexpectedEof 3 (remaining s - 3) (s.pos + 3)), st := .faulted } := by
  have hleft : remaining ((s.setPos (s.pos + 3)).setVer v) = remaining s - 3 :=
    remaining_setPos_add (s := s) 3
  rw [readingHeader, field_read hfirst hv, field_short (by omega), eofRaised, hleft]
  rfl

/-- A literal group cut in its payload: CFLAG and POS keep what the first read did (R138, R202). -/
theorem readingLiteralGroup_short_group {f : Flag} (hfirst : 1 ≤ remaining s) (hshort : remaining s < 5)
    (hf : memRead 1 s.bitmem s.pos = some f) :
    readingLiteralGroup none none s = .next { s with
      pos := s.pos + 1, cflag := f, fault := some (.unexpectedEof 4 (remaining s - 1) (s.pos + 1)),
      st := .faulted } := by
  have hleft : remaining ((s.setPos (s.pos + 1)).setCflag f) = remaining s - 1 :=
    remaining_setPos_add (s := s) 1
  rw [readingLiteralGroup, field_read hfirst hf, field_short (by omega), eofRaised, hleft]
  rfl

/-- Settles O38: in each reading state the step is the state rule, and the rule's read that finds too few bits raises. -/
theorem truncatedReadsRaiseUnexpectedEof : Obligations.TruncatedReadsRaiseUnexpectedEof := by
  intro s hrequest
  rw [step_eq_sequencer hrequest, sequencer]
  refine ⟨fun hst hshort => ?version, fun hst hfirst hshort v hv => ?typeId, fun hst hshort => ?continueFlag,
    fun hst hfirst hshort f hf => ?group, fun hst hshort => ?lengthTypeId, fun hst hshort => ?totalLength,
    fun hst hshort => ?subpacketCount⟩ <;> rw [hst]
  case version => exact field_short hshort
  case typeId => exact readingHeader_short_typeId hfirst hshort hv
  case continueFlag =>
    rw [← eofRaised_one hshort]
    exact field_short hshort
  case group => exact readingLiteralGroup_short_group hfirst hshort hf
  case lengthTypeId =>
    rw [← eofRaised_one hshort]
    exact field_short hshort
  case totalLength => exact field_short hshort
  case subpacketCount => exact field_short hshort

end Sys2Proof.Machine
end

section
/-! SUPPORT. What the 15 packet instructions do in the states of their path (R137, R138, R141, R143, R144), and where no
step is enabled (R157, R232). -/

namespace Sys2Proof.Machine

variable {s : State}

/-! ## A packet instruction's meaning -/

/-- A packet instruction acts as the literal or the operator of its type, version and form. -/
theorem packet_cases {i : Instr} (hformat : i.format ≠ .hexChar) :
    (∃ v gs, i.format = .lit ∧ i.typeId = some 4 ∧ i.version = some v ∧ exec i = litTransition v gs) ∨
      (∃ y v n, y ≠ 4 ∧ i.format = .opL ∧ i.typeId = some y ∧ i.version = some v ∧ exec i = opLTransition y v n) ∨
      (∃ y v c, y ≠ 4 ∧ i.format = .opC ∧ i.typeId = some y ∧ i.version = some v ∧ exec i = opCTransition y v c) := by
  cases hf : i.format with
  | hexChar => exact absurd hf hformat
  | lit =>
    obtain ⟨v, gs, rfl⟩ := eq_lit_of_format hf
    exact .inl ⟨v, gs, rfl, rfl, rfl, rfl⟩
  | opL =>
    obtain ⟨y, v, n, hy, hv, -, hne, -, hexec⟩ := exec_opL i hf
    exact .inr (.inl ⟨y, v, n, hne, rfl, hy, hv, hexec⟩)
  | opC =>
    obtain ⟨y, v, c, hy, hv, -, hne, -, hexec⟩ := exec_opC i hf
    exact .inr (.inr ⟨y, v, c, hne, rfl, hy, hv, hexec⟩)

theorem format_ne_hexChar {i : Instr} {v : Version} (h : i.version = some v) : i.format ≠ .hexChar := by
  cases i <;> simp [Instr.version, Instr.format] at h ⊢

/-- In ReadingHeader and in Done a current packet acts by its version and type alone (R137, R144). -/
theorem exec_readingHeader_or_done {i : Instr} {v : Version} {y : TypeId} (hv : i.version = some v)
    (hy : i.typeId = some y) (hcurrent : isCurrent v y s = true) :
    (s.st = .readingHeader → exec i s = readingHeader (some v) (some y) s) ∧ (s.st = .done → exec i s = done s) := by
  obtain ⟨v', gs, -, hy', hv', hexec⟩ | ⟨y', v', n, -, -, hy', hv', hexec⟩ | ⟨y', v', c, -, -, hy', hv', hexec⟩ :=
    packet_cases (format_ne_hexChar hv)
  all_goals
    cases hy'.symm.trans hy
    cases hv'.symm.trans hv
    rw [hexec]
  · rw [litTransition.eq_def, if_pos hcurrent]
    exact ⟨fun hst => by rw [hst], fun hst => by rw [hst]⟩
  · rw [opLTransition, if_pos hcurrent]
    exact ⟨fun hst => by rw [hst], fun hst => by rw [hst]⟩
  · rw [opCTransition, if_pos hcurrent]
    exact ⟨fun hst => by rw [hst], fun hst => by rw [hst]⟩

/-! ## The header (R137) -/

theorem readingHeader_eq (v : Version) (y : TypeId) (h : 6 ≤ remaining s) :
    readingHeader (some v) (some y) s = .next (afterHeader v y s) := by
  have hsecond : 3 ≤ remaining ((s.setPos (s.pos + 3)).setVer v) := by
    change 3 ≤ remaining (s.setPos (s.pos + 3))
    rw [remaining_setPos_add]
    omega
  rw [readingHeader, field_enough (by omega), field_enough hsecond, afterHeader]
  split <;> rfl

theorem afterHeader_operator {y : TypeId} (v : Version) (hy : y ≠ 4) :
    afterHeader v y s = { s with pos := s.pos + 3 + 3, ver := v, tid := y, st := .readingLengthTypeFlag } := if_neg hy

/-- The literals are the packets of type 4 (R89). -/
theorem format_eq_lit_iff {i : Instr} {y : TypeId} (hformat : i.format ≠ .hexChar) (hy : i.typeId = some y) :
    i.format = .lit ↔ y = 4 := by
  obtain ⟨v, gs, hf, hy', -⟩ | ⟨y', v, n, hne, hf, hy', -⟩ | ⟨y', v, c, hne, hf, hy', -⟩ := packet_cases hformat
  · cases hy'.symm.trans hy
    exact iff_of_true hf rfl
  · cases hy'.symm.trans hy
    exact iff_of_false (by simp [hf]) hne
  · cases hy'.symm.trans hy
    exact iff_of_false (by simp [hf]) hne

/-- Settles O14: every packet instruction delivers its version and type to the header's rule, and the literals are those
of type 4. -/
theorem packetHeaderIsRead : Obligations.PacketHeaderIsRead := by
  intro i v y s hv hy hst hroom
  obtain ⟨hexec, -⟩ := exec_readingHeader_or_done (s := s) hv hy (by simp [isCurrent, hst])
  rw [hexec hst, readingHeader_eq v y hroom]
  simp only [format_eq_lit_iff (format_ne_hexChar hv) hy]
  split
  · next h4 =>
    subst h4
    rw [afterHeader_literal]
  · next h4 => rw [afterHeader_operator v h4]

/-! ## A literal's group (R138) -/

theorem readingLiteralGroup_eq (f : Flag) (g : Nibble) (h : 5 ≤ remaining s) :
    readingLiteralGroup (some f) (some g) s =
      .next (foldGroup f g (((s.setPos (s.pos + 1)).setCflag f).setPos (s.pos + 1 + 4))) := by
  have hsecond : 4 ≤ remaining ((s.setPos (s.pos + 1)).setCflag f) := by
    change 4 ≤ remaining (s.setPos (s.pos + 1))
    rw [remaining_setPos_add]
    omega
  rw [readingLiteralGroup, field_enough (by omega), field_enough hsecond]
  rfl

/-- Settles O15: the operand is the first remaining group, and its flag says whether others follow. -/
theorem literalGroupIsFolded : Obligations.LiteralGroupIsFolded := by
  intro v g rest s hst hver htid hroom
  subst hver
  have hexec : exec (.lit s.ver (g :: rest)) s = readingLiteralGroup (some (continueFlag rest)) (some g) s := by
    simp [exec, execLit, litTransition, isCurrent, hst, htid]
  rw [hexec, readingLiteralGroup_eq _ g hroom]
  split
  · next hlast =>
    subst hlast
    rw [show continueFlag [] = 0 from rfl, foldGroup_last, literalDone, htid]
  · next hmore => rw [continueFlag, if_neg (by simpa using hmore), foldGroup_more, afterGroup, ← hst]

/-! ## The frame under test (R141, R143) -/

theorem exec_opL_top {i : Instr} {f : Frame} {rest : List Frame} (hformat : i.format = .opL)
    (hver : i.version = some f.ver) (htid : i.typeId = some f.tid) (hst : s.st = .parsingSubpacketsByLength)
    (hstack : s.stack = f :: rest) : exec i s = parsingSubpacketsByLength s := by
  obtain ⟨y, v, n, hy, hv, -, -, -, hexec⟩ := exec_opL i hformat
  cases hy.symm.trans htid
  cases hv.symm.trans hver
  simp [hexec, opLTransition, isCurrent, hst, hstack]

theorem exec_opC_top {i : Instr} {f : Frame} {rest : List Frame} (hformat : i.format = .opC)
    (hver : i.version = some f.ver) (htid : i.typeId = some f.tid) (hst : s.st = .parsingSubpacketsByCount)
    (hstack : s.stack = f :: rest) : exec i s = parsingSubpacketsByCount s := by
  obtain ⟨y, v, c, hy, hv, -, -, -, hexec⟩ := exec_opC i hformat
  cases hy.symm.trans htid
  cases hv.symm.trans hver
  simp [hexec, opCTransition, isCurrent, hst, hstack]

/-- Settles O20: the three sides of the test of the bits consumed against the declared length. -/
theorem declaredLengthIsTested : Obligations.DeclaredLengthIsTested := by
  intro i f rest s hformat hver htid hst hstack hmark
  rw [exec_opL_top hformat hver htid hst hstack, parsingSubpacketsByLength_eq hstack hmark]
  refine ⟨fun hdone => ?_, fun hover => ?_, fun hmore => ?_⟩
  · rw [if_pos hdone]
    rfl
  · rw [if_neg (by omega), if_pos hover]
    rfl
  · rw [if_neg (by omega), if_neg (by omega)]
    rfl

/-- Settles O21: the two sides of the test of the subpackets completed against the declared count. -/
theorem declaredCountIsTested : Obligations.DeclaredCountIsTested := by
  intro i f rest s hformat hver htid hst hstack
  rw [exec_opC_top hformat hver htid hst hstack, parsingSubpacketsByCount_eq hstack]
  exact ⟨fun hdone => if_pos hdone, fun hmore => if_neg hmore⟩

/-! ## A completed packet (R144, R153) -/

theorem done_eq {p : Packet} (hret : s.ret = some p) : done s = .next (handOver p s) := by
  simp only [done, hret]

theorem handOver_root (p : Packet) (hstack : s.stack = []) :
    handOver p s = ((s.setRoot (some p)).setRet none).setSt .parseOk := by
  simp only [handOver, hstack]

theorem handOver_subpacket (p : Packet) {f : Frame} {rest : List Frame} (hstack : s.stack = f :: rest) :
    handOver p s = ((s.setStack (f.append p :: rest)).setRet none).setSt (resumeState f.mode) := by
  simp only [handOver, hstack]

/-- Settles O22: in Done the instruction and the step are both the Done rule, which hands RET over. -/
theorem completedPacketIsHandedOver : Obligations.CompletedPacketIsHandedOver := by
  intro i p s hver htid hst hret hrequest
  obtain ⟨-, hexec⟩ := exec_readingHeader_or_done (s := s) hver htid (by simp [isCurrent, hst, hret])
  have hstep : step s = done s := by rw [step_eq_sequencer hrequest, sequencer, hst]
  rw [hexec hst, hstep, done_eq hret]
  refine ⟨rfl, fun hstack => ?_, fun f rest hstack => ?_⟩
  · rw [handOver_root p hstack]
    rfl
  · rw [handOver_subpacket p hstack]
    obtain ⟨v, y, mode, mark, limit, kids⟩ := f
    cases mode <;> rfl

theorem Packets.toList_snoc (ps : Packets) (p : Packet) : (ps.snoc p).toList = ps.toList ++ [p] := by
  match ps with
  | .nil => rfl
  | .cons q ps => simp [Packets.snoc, Packets.toList, Packets.toList_snoc ps p]

/-- Settles O23: by recursion along the sequence. -/
theorem subpacketsKeepTheirOrder : Obligations.SubpacketsKeepTheirOrder :=
  fun ps p => ⟨Packets.toList_snoc ps p, Packets.length_snoc ps p⟩

/-! ## Halted states (R157, R232) -/

theorem halted_iff : halted s = true ↔ s.st = .idle ∨ s.st = .faulted ∨ (s.st = .parseOk ∧ s.vsum.isSome = true) := by
  unfold halted
  cases s.st <;> simp

/-- Settles O39: the sequencer has no rule in Idle and Faulted, and the back end none once VSUM is set. -/
theorem haltedStatesHaveNoStep : Obligations.HaltedStatesHaveNoStep := by
  intro s hrequest hhalted
  rw [step_eq_sequencer hrequest, sequencer]
  obtain hst | hst | ⟨hst, hvsum⟩ := halted_iff.1 hhalted <;> rw [hst]
  exact if_pos hvsum

end Sys2Proof.Machine
end

section
/-! SUPPORT. From an operator's header until its frame is open the block decodes the same instruction: the registers
hold what was read of its code, and the rest is still unread (R137, R139 to R143). -/

namespace Sys2Proof.Machine

variable {s t : State}

/-! ## The instruction in progress, state by state -/

theorem instrInProgress_header {i : Instr} (hst : s.st = .readingHeader) :
    instrInProgress s = some i ↔ ∃ rest, decodeBits (unread s) = .ok (i, rest) := by
  simp only [instrInProgress, hst, decode, accepted_eq_some]

theorem instrInProgress_lengthTypeFlag {i : Instr} (hst : s.st = .readingLengthTypeFlag) :
    instrInProgress s = some i ↔ ∃ rest, decodeOperator s.ver s.tid (unread s) = .ok (i, rest) := by
  simp only [instrInProgress, hst, accepted_eq_some]

theorem instrInProgress_totalLength {i : Instr} (hst : s.st = .readingTotalLengthPrefix) :
    instrInProgress s = some i ↔ ∃ rest, decodeOpL s.ver s.tid (unread s) = .ok (i, rest) := by
  simp only [instrInProgress, hst, accepted_eq_some]

theorem instrInProgress_subpacketCount {i : Instr} (hst : s.st = .readingSubpacketCount) :
    instrInProgress s = some i ↔ ∃ rest, decodeOpC s.ver s.tid (unread s) = .ok (i, rest) := by
  simp only [instrInProgress, hst, accepted_eq_some]

/-- An open frame holds the operands of its operator (R30). -/
theorem instrInProgress_openedByLength {i : Instr} {n : LengthField} (h : opLInstr s.tid s.ver n = some i) :
    instrInProgress (afterOpen .byLength 15 n.toNat s) = some i := by
  change (if n.toNat < 2 ^ 15 then opLInstr s.tid s.ver (BitVec.ofNat 15 n.toNat) else none) = some i
  rw [if_pos n.isLt, BitVec.ofNat_toNat, BitVec.setWidth_eq, h]

theorem instrInProgress_openedByCount {i : Instr} {c : CountField} (h : opCInstr s.tid s.ver c = some i) :
    instrInProgress (afterOpen .byCount 11 c.toNat s) = some i := by
  change (if c.toNat < 2 ^ 11 then opCInstr s.tid s.ver (BitVec.ofNat 11 c.toNat) else none) = some i
  rw [if_pos c.isLt, BitVec.ofNat_toNat, BitVec.setWidth_eq, h]

/-! ## Each step from the header to the frame -/

/-- A field that stands at the front of the unread bits is what the next read delivers. -/
theorem field_read_of_unread {w : Nat} {v : BitVec w} {rest : List Bit} {k : BitVec w → State → Out}
    (h : unread s = fieldBits v ++ rest) : field w none s k = k v (s.setPos (s.pos + w)) := by
  obtain ⟨hroom, hread, -⟩ := field_of_unread h
  exact field_read hroom hread

theorem unread_setPos {w : Nat} {v : BitVec w} {rest : List Bit} (h : unread s = fieldBits v ++ rest) :
    unread (s.setPos (s.pos + w)) = rest := by
  obtain ⟨-, -, hrest⟩ := field_of_unread h
  exact hrest

/-- After its header the operator is decoded from VER, TID and the bits behind the header (R137). -/
theorem operator_after_header {i : Instr} (hformat : i.format = .opL ∨ i.format = .opC) (hst : s.st = .readingHeader)
    (hi : instrInProgress s = some i) (h : readingHeader none none s = .next t) : instrInProgress t = some i := by
  obtain ⟨rest, hdecode⟩ := (instrInProgress_header hst).1 hi
  obtain ⟨v, y, tail, hbits, ⟨-, hlit⟩ | ⟨hy, hop⟩⟩ := decodeBits_ok hdecode
  · obtain ⟨g, gs, -, rfl, -⟩ := decodeLiteral_ok hlit
    simp [Instr.format] at hformat
  · have htail : unread ((s.setPos (s.pos + 3)).setVer v) = fieldBits y ++ tail := unread_setPos hbits
    rw [readingHeader, field_read_of_unread hbits, field_read_of_unread htail, if_neg hy] at h
    cases h
    refine (instrInProgress_lengthTypeFlag rfl).2 ⟨rest, ?_⟩
    rw [← hop]
    exact congrArg (decodeOperator v y) (unread_setPos htail)

/-- After the flag it is decoded in the form the flag selects (R139). -/
theorem operator_after_lengthTypeFlag {i : Instr} (hst : s.st = .readingLengthTypeFlag)
    (hi : instrInProgress s = some i) (h : readingLengthTypeFlag none s = .next t) : instrInProgress t = some i := by
  obtain ⟨rest, hdecode⟩ := (instrInProgress_lengthTypeFlag hst).1 hi
  obtain ⟨n, hn, hbits⟩ | ⟨c, hc, hbits⟩ := decodeOperator_eq_ok.1 hdecode
  · have hflag : unread s = fieldBits (0 : Flag) ++ (fieldBits n ++ rest) := hbits
    rw [readingLengthTypeFlag, field_read_of_unread hflag] at h
    cases h
    exact (instrInProgress_totalLength rfl).2 ⟨rest, decodeOpL_eq_ok.2 ⟨n, hn, unread_setPos hflag⟩⟩
  · have hflag : unread s = fieldBits (1 : Flag) ++ (fieldBits c ++ rest) := hbits
    rw [readingLengthTypeFlag, field_read_of_unread hflag] at h
    cases h
    exact (instrInProgress_subpacketCount rfl).2 ⟨rest, decodeOpC_eq_ok.2 ⟨c, hc, unread_setPos hflag⟩⟩

/-- After the total length its operands are in the frame (R140). -/
theorem operator_after_totalLength {i : Instr} (hst : s.st = .readingTotalLengthPrefix)
    (hi : instrInProgress s = some i) (h : readingTotalLengthPrefix none s = .next t) : instrInProgress t = some i := by
  obtain ⟨rest, hdecode⟩ := (instrInProgress_totalLength hst).1 hi
  obtain ⟨n, hn, hbits⟩ := decodeOpL_eq_ok.1 hdecode
  rw [readingTotalLengthPrefix, field_read_of_unread hbits] at h
  cases h
  exact instrInProgress_openedByLength hn

/-- After the subpacket count its operands are in the frame (R142). -/
theorem operator_after_subpacketCount {i : Instr} (hst : s.st = .readingSubpacketCount)
    (hi : instrInProgress s = some i) (h : readingSubpacketCount none s = .next t) : instrInProgress t = some i := by
  obtain ⟨rest, hdecode⟩ := (instrInProgress_subpacketCount hst).1 hi
  obtain ⟨c, hc, hbits⟩ := decodeOpC_eq_ok.1 hdecode
  rw [readingSubpacketCount, field_read_of_unread hbits] at h
  cases h
  exact instrInProgress_openedByCount hc

/-- Settles O34: each of the four states reads one more field of the operator's code, and what is decoded after it is
the same operator. -/
theorem operatorStaysInProgress : Obligations.OperatorStaysInProgress := by
  intro s t i hrequest hformat hi hstep hstates
  rw [step_eq_sequencer hrequest, sequencer] at hstep
  obtain hst | hst | hst | hst := hstates <;> rw [hst] at hstep
  · exact operator_after_header hformat hst hi hstep
  · exact operator_after_lengthTypeFlag hst hi hstep
  · exact operator_after_totalLength hst hi hstep
  · exact operator_after_subpacketCount hst hi hstep

end Sys2Proof.Machine
end

section
/-! SUPPORT. Where the steps of a run lead (R145), and that the parser goes on (R151): every outcome of a state rule
follows an edge of the transition graph, and in the parser every outcome but a raise brings the measure down. -/

namespace Sys2Proof.Machine

variable {s t : State}

/-! ## The edges (R145) -/

theorem edge_faulted {x : ParserState} (h : readsField x) : edge x .faulted = true := by
  rcases h with rfl | rfl | rfl | rfl | rfl <;> rfl

theorem edge_afterLengthType (f : Flag) : edge .readingLengthTypeFlag (afterLengthType f) = true := by
  unfold afterLengthType
  split <;> rfl

theorem edge_prefixState (m : Mode) : edge (prefixState m) (resumeState m) = true := by cases m <;> rfl

theorem edge_resumeState_done (m : Mode) : edge (resumeState m) .done = true := by cases m <;> rfl

theorem edge_resumeState_readingHeader (m : Mode) : edge (resumeState m) .readingHeader = true := by cases m <;> rfl

theorem edge_done (m : Mode) : edge .done (resumeState m) = true := by cases m <;> rfl

/-- Every outcome of a state rule follows an edge. -/
theorem StateRule.edge (h : StateRule s t) : edge s.st t.st = true := by
  cases h
  case unexpectedEof hst _ _ => exact edge_faulted hst
  case digit hst _ _ =>
    change Machine.edge s.st s.st = true
    rw [hst]
    rfl
  case lengthType f hst _ =>
    rw [hst]
    exact edge_afterLengthType f
  case opened m _ _ hst _ _ =>
    rw [hst]
    exact edge_prefixState m
  case completed m _ _ hst _ =>
    rw [hst]
    exact edge_resumeState_done m
  case nextSubpacket m _ _ hst _ _ =>
    rw [hst]
    exact edge_resumeState_readingHeader m
  case subpacket p f rest hst _ _ =>
    rw [hst]
    exact edge_done f.mode
  case results hst _ _ =>
    rw [setResults_st, hst]
    rfl
  case endOfLine hst _ | malformedHex hst _ _ | literalHeader hst _ | operatorHeader hst _ _ | group hst _ |
      lastGroup hst _ | overconsumed hst _ | root hst _ _ =>
    rw [hst]
    rfl

/-- Settles O35: a step without a host action is an outcome of the state rule. -/
theorem stepsFollowTheTransitionGraph : Obligations.StepsFollowTheTransitionGraph :=
  fun _ _ hrequest hstep => (stateRule_of_step hrequest hstep).edge

/-- From the parser an edge leads to the parser, to ParseOk or to Faulted. -/
theorem parsing_of_edge {x y : ParserState} (h : edge x y = true) (hx : parsing x = true) :
    parsing y = true ∨ y = .parseOk ∨ y = .faulted := by
  cases y with
  | parseOk => exact .inr (.inl rfl)
  | faulted => exact .inr (.inr rfl)
  | idle => cases x <;> cases h
  | loading => cases x <;> simp [edge, parsing] at h hx
  | _ => exact .inl rfl

/-! ## The progress measure (R151) -/

/-- The width of the field that holds a frame's limit (R87, R88). -/
def prefixWidth : Mode → Nat
  | .byLength => 15
  | .byCount => 11

theorem three_lt_prefixWidth (m : Mode) : 3 < prefixWidth m := by cases m <;> decide

/-- A frame is opened behind the field of its form. -/
theorem opened_width {m : Mode} {w n : Nat} (hrequest : s.request = none) (hst : s.st = prefixState m)
    (h : step s = .next (afterOpen m w n s)) : w = prefixWidth m := by
  have hrule : ∃ k, afterOpen m w n s = afterOpen m (prefixWidth m) k s := by
    rw [step_eq_sequencer hrequest, sequencer, hst] at h
    cases m with
    | byLength =>
      obtain ⟨-, heof⟩ | ⟨-, k, -, hopen⟩ := readingTotalLengthPrefix_next h
      · cases congrArg State.st heof
      · exact ⟨_, hopen⟩
    | byCount =>
      obtain ⟨-, heof⟩ | ⟨-, k, -, hopen⟩ := readingSubpacketCount_next h
      · cases congrArg State.st heof
      · exact ⟨_, hopen⟩
  obtain ⟨k, hopen⟩ := hrule
  simpa using congrArg State.pos hopen

/-- What ST adds to the measure: one while the top frame is tested, two in Done. -/
def pending (x : ParserState) : Nat :=
  match x with
  | .parsingSubpacketsByLength | .parsingSubpacketsByCount => 1
  | .done => 2
  | _ => 0

theorem progress_eq (s : State) : progress s = remaining s + 2 * s.stack.length + pending s.st := by
  unfold progress pending
  cases s.st <;> rfl

@[simp] theorem pending_done : pending .done = 2 := rfl

@[simp] theorem pending_readingHeader : pending .readingHeader = 0 := rfl

@[simp] theorem pending_readingLengthTypeFlag : pending .readingLengthTypeFlag = 0 := rfl

@[simp] theorem pending_resumeState (m : Mode) : pending (resumeState m) = 1 := by cases m <;> rfl

@[simp] theorem pending_prefixState (m : Mode) : pending (prefixState m) = 0 := by cases m <;> rfl

@[simp] theorem pending_afterLengthType (f : Flag) : pending (afterLengthType f) = 0 := by
  unfold afterLengthType
  split <;> rfl

/-- A read of w bits takes w off the measure, which may add less than that to the stack and ST. -/
theorem progress_lt_of_read {w : Nat} (hpos : t.pos = s.pos + w) (hlen : t.len = s.len) (hroom : w ≤ remaining s)
    (hless : 2 * t.stack.length + pending t.st < w + 2 * s.stack.length + pending s.st) : progress t < progress s := by
  rw [remaining] at hroom
  rw [progress_eq, progress_eq, remaining, remaining, hpos, hlen]
  omega

/-- Without a read the measure falls with the stack and ST. -/
theorem progress_lt_of_stack (hpos : t.pos = s.pos) (hlen : t.len = s.len)
    (hless : 2 * t.stack.length + pending t.st < 2 * s.stack.length + pending s.st) : progress t < progress s :=
  progress_lt_of_read (w := 0) hpos hlen (Nat.zero_le _) (by omega)

/-- Settles O57: a read takes bits, more than a frame it opens is worth; every other step takes a frame or what ST
adds. -/
theorem parserAlwaysProgresses : Obligations.ParserAlwaysProgresses := by
  intro s t hrequest hparsing hstep
  cases stateRule_of_step hrequest hstep
  case endOfLine hst _ | malformedHex hst _ _ | digit hst _ _ | results hst _ _ => simp [hst, parsing] at hparsing
  case unexpectedEof | overconsumed => exact .inl rfl
  case literalHeader hst hroom | operatorHeader hst hroom _ | group hst hroom =>
    exact .inr (progress_lt_of_read rfl rfl hroom (by simp [hst, pending]))
  case lastGroup hst hroom => exact .inr (progress_lt_of_read rfl rfl hroom (by simp [hst, pending]; omega))
  case lengthType f hst hroom => exact .inr (progress_lt_of_read rfl rfl hroom (by simp [hst]))
  case opened m w n hst hw hroom =>
    have hwidth := opened_width hrequest hst hstep
    have hwide := three_lt_prefixWidth m
    exact .inr (progress_lt_of_read rfl rfl hroom (by simp [hst]; omega))
  case completed m f rest hst hstack =>
    exact .inr (progress_lt_of_stack rfl rfl (by simp [completeFrame, hst, hstack]; omega))
  case nextSubpacket hst _ _ => exact .inr (progress_lt_of_stack rfl rfl (by simp [hst]))
  case root hst _ _ => exact .inr (progress_lt_of_stack rfl rfl (by simp [hst, pending]))
  case subpacket hst _ hstack => exact .inr (progress_lt_of_stack rfl rfl (by simp [hst, hstack]))

end Sys2Proof.Machine
end

section
/-! SUPPORT. The parser's run on a bit sequence ends in one way only (R136, R149, R151): once it has ended, what it
ended with stays, so it ends exactly as PARSE_PACKET(0) returns or raises, and the progress measure bounds its steps. -/

namespace Sys2Proof.Machine

variable {bs : List Bit} {s t u : State} {line : List CharCode}

/-! ## No host action appears by itself -/

@[simp] theorem setResults_request (p : Packet) : (setResults p s).request = s.request := by
  unfold setResults
  split <;> rfl

theorem StateRule.request_eq (h : StateRule s t) : t.request = s.request := by
  cases h
  case results => simp
  all_goals rfl

theorem Reaches.request_eq_none (h : Reaches s t) (hrequest : s.request = none) : t.request = none := by
  obtain ⟨k, hrun⟩ := h
  induction k generalizing s with
  | zero =>
    cases hrun
    exact hrequest
  | succ k ih =>
    obtain ⟨u, hstep, hrun⟩ := run_succ_next hrun
    exact ih ((stateRule_of_step hrequest hstep).request_eq.trans hrequest) hrun

/-! ## The end of a parse -/

/-- The parser has ended: with a tree, or with a fault. -/
def ParseEnded (s : State) : Prop := s.st = .parseOk ∨ s.st = .faulted

/-- What the parser ended with. -/
def verdict (s : State) : ParserState × Option Packet × Nat × Option FaultRecord := (s.st, s.root, s.pos, s.fault)

theorem verdict_eq_iff :
    verdict s = verdict t ↔ s.st = t.st ∧ s.root = t.root ∧ s.pos = t.pos ∧ s.fault = t.fault := by
  simp [verdict]

theorem step_ne_next_of_faulted (hrequest : s.request = none) (hst : s.st = .faulted) : step s ≠ .next t := by
  rw [haltedStatesHaveNoStep s hrequest (halted_of_faulted hst)]
  nofun

/-- After the parse only the back end acts, which leaves the verdict alone (R157). -/
theorem ParseEnded.verdict_step (h : ParseEnded s) (hrequest : s.request = none) (hstep : step s = .next t) :
    verdict t = verdict s := by
  obtain hst | hst := h
  · rw [step_eq_sequencer hrequest, sequencer, hst] at hstep
    obtain ⟨-, p, -, rfl⟩ := backEnd_next hstep
    simp [verdict]
  · exact absurd hstep (step_ne_next_of_faulted hrequest hst)

theorem ParseEnded.congr (h : ParseEnded s) (hst : t.st = s.st) : ParseEnded t := by
  rwa [ParseEnded, hst]

theorem ParseEnded.verdict_eq (h : ParseEnded s) (hrequest : s.request = none) (hreach : Reaches s t) :
    verdict t = verdict s := by
  obtain ⟨k, hrun⟩ := hreach
  induction k generalizing s with
  | zero =>
    cases hrun
    rfl
  | succ k ih =>
    obtain ⟨u, hstep, hrun⟩ := run_succ_next hrun
    have hsame := h.verdict_step hrequest hstep
    obtain ⟨hst, -⟩ := verdict_eq_iff.1 hsame
    exact (ih (h.congr hst) (Reaches.request_eq_none (.single hstep) hrequest) hrun).trans hsame

/-- A run has one verdict. -/
theorem verdict_unique (hrequest : s.request = none) (ht : Reaches s t) (hu : Reaches s u) (htend : ParseEnded t)
    (huend : ParseEnded u) : verdict t = verdict u := by
  have htrequest := ht.request_eq_none hrequest
  have hurequest := hu.request_eq_none hrequest
  obtain ⟨k, hk⟩ := ht
  obtain ⟨l, hl⟩ := hu
  obtain ⟨d, rfl⟩ | ⟨d, rfl⟩ := (Nat.le_total k l).imp Nat.exists_eq_add_of_le Nat.exists_eq_add_of_le
  · exact (htend.verdict_eq htrequest ⟨d, (run_add hk).symm.trans hl⟩).symm
  · exact huend.verdict_eq hurequest ⟨d, (run_add hl).symm.trans hk⟩

/-! ## The parser and the reference function (R149) -/

theorem parserStart_request : (parserStart line bs).request = none := rfl

theorem parsePacket_ok_or_raised (bs : List Bit) :
    (∃ r q, parsePacket bs (enoughFuel bs) 0 = .ok (r, q)) ∨ ∃ f, parsePacket bs (enoughFuel bs) 0 = .raised f := by
  cases h : parsePacket bs (enoughFuel bs) 0 with
  | ok a => exact .inl ⟨a.1, a.2, rfl⟩
  | raised f => exact .inr ⟨f, rfl⟩
  | outOfFuel => exact absurd h (parsePacket_enoughFuel_ne_outOfFuel bs)

/-- Under any recursion bound, where PARSE_PACKET returns, the parser completes the packet. -/
theorem reaches_completed (line : List CharCode) {fuel q : Nat} {r : Packet} (h : parsePacket bs fuel 0 = .ok (r, q)) :
    ∃ t, Reaches (parserStart line bs) t ∧ Completed bs [] (r, q) t := by
  have hfollows := packetFollowed bs fuel _ (onBits_parserStart line bs) rfl
  rwa [show (parserStart line bs).pos = 0 from rfl, h] at hfollows

theorem reaches_parseOk (line : List CharCode) {fuel q : Nat} {r : Packet} (h : parsePacket bs fuel 0 = .ok (r, q)) :
    ∃ t, Reaches (parserStart line bs) t ∧ t.st = .parseOk ∧ t.root = some r ∧ t.pos = q := by
  obtain ⟨t, ht, hcompleted⟩ := reaches_completed line h
  exact ⟨_, ht.trans (.single hcompleted.step_root), rfl, rfl, hcompleted.pos⟩

theorem reaches_faulted (line : List CharCode) {fuel : Nat} {f : FaultRecord} (h : parsePacket bs fuel 0 = .raised f) :
    ∃ t, Reaches (parserStart line bs) t ∧ t.st = .faulted ∧ t.fault = some f := by
  have hfollows := packetFollowed bs fuel _ (onBits_parserStart line bs) rfl
  rwa [show (parserStart line bs).pos = 0 from rfl, h] at hfollows

/-- What PARSE_PACKET returns does not depend on the recursion bound. -/
theorem parsePacket_ok_unique {fuel fuel' q q' : Nat} {r r' : Packet} (h : parsePacket bs fuel 0 = .ok (r, q))
    (h' : parsePacket bs fuel' 0 = .ok (r', q')) : r = r' ∧ q = q' := by
  obtain ⟨t, ht, hst, hroot, hpos⟩ := reaches_parseOk [] h
  obtain ⟨t', ht', hst', hroot', hpos'⟩ := reaches_parseOk [] h'
  obtain ⟨-, hsame, hsame', -⟩ :=
    verdict_eq_iff.1 (verdict_unique parserStart_request ht ht' (.inl hst) (.inl hst'))
  rw [hroot, hroot', Option.some.injEq] at hsame
  rw [hpos, hpos'] at hsame'
  exact ⟨hsame, hsame'⟩

/-- Settles O59: the parser follows PARSE_PACKET(0) to an end, and a run has one verdict. -/
theorem machineAgreesWithTheReference : Obligations.MachineAgreesWithTheReference := by
  intro line bs _
  have hunique {t u : State} (ht : Reaches (parserStart line bs) t) (hu : Reaches (parserStart line bs) u)
      (htend : ParseEnded t) (huend : ParseEnded u) :=
    verdict_eq_iff.1 (verdict_unique parserStart_request ht hu htend huend)
  refine ⟨fun r q => ⟨fun h => ?_, ?_⟩, fun f => ⟨fun h => ?_, ?_⟩⟩
  · obtain ⟨t, ⟨k, hrun⟩, hend⟩ := reaches_parseOk line h
    exact ⟨k, t, hrun, hend⟩
  · rintro ⟨k, t, hrun, hst, hroot, hpos⟩
    obtain ⟨r', q', h⟩ | ⟨f, h⟩ := parsePacket_ok_or_raised bs
    · obtain ⟨u, hu, hust, huroot, hupos⟩ := reaches_parseOk line h
      obtain ⟨-, hsame, hsame', -⟩ := hunique ⟨k, hrun⟩ hu (.inl hst) (.inl hust)
      rw [hroot, huroot, Option.some.injEq] at hsame
      rw [hpos, hupos] at hsame'
      rw [h, hsame, hsame']
    · obtain ⟨u, hu, hust, -⟩ := reaches_faulted line h
      obtain ⟨hsame, -⟩ := hunique ⟨k, hrun⟩ hu (.inl hst) (.inr hust)
      rw [hst, hust] at hsame
      cases hsame
  · obtain ⟨t, ⟨k, hrun⟩, hend⟩ := reaches_faulted line h
    exact ⟨k, t, hrun, hend⟩
  · rintro ⟨k, t, hrun, hst, hfault⟩
    obtain ⟨r, q, h⟩ | ⟨f', h⟩ := parsePacket_ok_or_raised bs
    · obtain ⟨u, hu, hust, -⟩ := reaches_parseOk line h
      obtain ⟨hsame, -⟩ := hunique ⟨k, hrun⟩ hu (.inr hst) (.inl hust)
      rw [hst, hust] at hsame
      cases hsame
    · obtain ⟨u, hu, hust, hufault⟩ := reaches_faulted line h
      obtain ⟨-, -, -, hsame⟩ := hunique ⟨k, hrun⟩ hu (.inr hst) (.inr hust)
      rw [hfault, hufault, Option.some.injEq] at hsame
      rw [h, hsame]

/-! ## The number of steps (R151) -/

theorem run_of_faulted {k : Nat} (hrequest : s.request = none) (hst : s.st = .faulted) (h : run k s = .next t) :
    k = 0 := by
  cases k with
  | zero => rfl
  | succ k =>
    obtain ⟨u, hstep, -⟩ := run_succ_next h
    exact absurd hstep (step_ne_next_of_faulted hrequest hst)

/-- A run inside the parser takes no more steps than the measure falls, and one more for a raise. -/
theorem run_progress {k : Nat} (hrequest : s.request = none) (hparsing : parsing s.st = true)
    (h : run k s = .next t) :
    (parsing t.st = true → k + progress t ≤ progress s) ∧ (t.st = .faulted → k ≤ progress s + 1) := by
  induction k generalizing s with
  | zero =>
    cases h
    exact ⟨fun _ => by omega, fun _ => by omega⟩
  | succ k ih =>
    obtain ⟨u, hstep, hrun⟩ := run_succ_next h
    have hurequest : u.request = none := Reaches.request_eq_none (.single hstep) hrequest
    obtain hu | hu | hu := parsing_of_edge (stateRule_of_step hrequest hstep).edge hparsing
    · obtain hfault | hless := parserAlwaysProgresses s u hrequest hparsing hstep
      · simp [hfault, parsing] at hu
      · obtain ⟨hinside, hraised⟩ := ih hurequest hu hrun
        exact ⟨fun ht => by have := hinside ht; omega, fun ht => by have := hraised ht; omega⟩
    · have hsame : verdict t = verdict u := ParseEnded.verdict_eq (.inl hu) hurequest ⟨k, hrun⟩
      obtain ⟨hst, -⟩ := verdict_eq_iff.1 hsame
      rw [hst, hu]
      exact ⟨fun ht => by simp [parsing] at ht, fun ht => by cases ht⟩
    · obtain rfl := run_of_faulted hurequest hu hrun
      cases hrun
      exact ⟨fun ht => by simp [hu, parsing] at ht, fun _ => by omega⟩

theorem progress_parserStart : progress (parserStart line bs) = bs.length := rfl

/-- Settles O58: the parser starts with a measure of LEN, and Done still has a measure of two. -/
theorem parserStepsAreBounded : Obligations.ParserStepsAreBounded := by
  intro line bs _
  obtain ⟨r, q, h⟩ | ⟨f, h⟩ := parsePacket_ok_or_raised bs
  · obtain ⟨t, ⟨k, hrun⟩, hcompleted⟩ := reaches_completed line h
    obtain ⟨hinside, -⟩ := run_progress parserStart_request rfl hrun
    have hbound := hinside (by rw [hcompleted.st]; rfl)
    rw [progress_parserStart, progress_eq t, hcompleted.st, pending_done] at hbound
    refine ⟨k + 1, _, (run_add hrun).trans (run_succ hcompleted.step_root), .inl ⟨rfl, by omega⟩⟩
  · obtain ⟨t, ⟨k, hrun⟩, hst, -⟩ := reaches_faulted line h
    obtain ⟨-, hraised⟩ := run_progress parserStart_request rfl hrun
    exact ⟨k, t, hrun, .inr ⟨hst, hraised hst⟩⟩

end Sys2Proof.Machine
end

section
/-! SUPPORT. Two consequences for whole packets: an operator without subpackets parses to Operator of nothing (R154),
and a line cut short never gives another tree (R155). -/

namespace Sys2Proof.Machine

variable {bs : List Bit}

/-! ## Operators without subpackets (R154) -/

/-- RD of a field that stands at p: the field, and the bits behind it. -/
theorem rd_of_drop {p w : Nat} {v : BitVec w} {rest : List Bit} (h : bs.drop p = fieldBits v ++ rest) :
    rd bs p w = .ok (v, p + w) ∧ bs.drop (p + w) = rest := by
  have hlen : w ≤ bs.length - p := by
    rw [← List.length_drop, h, List.length_append, length_fieldBits]
    omega
  refine ⟨rd_eq_ok.2 ⟨hlen, ?_⟩, ?_⟩
  · rw [h, List.take_left' (length_fieldBits v), fieldOf_fieldBits]
  · rw [← List.drop_drop, h, List.drop_left' (length_fieldBits v)]

/-- The four reads of an operator without its subpackets: version, type, flag, the field of the form (R86 to R88). -/
theorem rd_operator_fields {p w : Nat} {v : Version} {y : TypeId} {f : Flag} {x : BitVec w} {rest : List Bit}
    (h : bs.drop p = headerBits v y ++ (fieldBits f ++ (fieldBits x ++ rest))) :
    rd bs p 3 = .ok (v, p + 3) ∧ rd bs (p + 3) 3 = .ok (y, p + 3 + 3) ∧ rd bs (p + 3 + 3) 1 = .ok (f, p + 3 + 3 + 1) ∧
      rd bs (p + 3 + 3 + 1) w = .ok (x, p + 3 + 3 + 1 + w) := by
  rw [headerBits, List.append_assoc] at h
  obtain ⟨hver, h⟩ := rd_of_drop h
  obtain ⟨htid, h⟩ := rd_of_drop h
  obtain ⟨hflag, h⟩ := rd_of_drop h
  obtain ⟨hfield, -⟩ := rd_of_drop h
  exact ⟨hver, htid, hflag, hfield⟩

/-- A total length of 0 is reached before any subpacket (R87, R141). -/
theorem parsePacket_opL_zero {fuel p : Nat} {v : Version} {y : TypeId} {rest : List Bit} (hy : y ≠ 4)
    (h : bs.drop p = opLBits y v 0 ++ rest) :
    parsePacket bs (fuel + 2) p = .ok (.operator v y .nil, p + 22) := by
  rw [opLBits, List.append_assoc] at h
  obtain ⟨hver, htid, hflag, hlimit⟩ := rd_operator_fields (f := 0) (x := (0 : LengthField)) h
  simp only [parsePacket, hver, htid, hflag, hlimit, Ref.bind, if_neg hy]
  simp [byLength]

/-- A subpacket count of 0 is reached before any subpacket (R88, R143). -/
theorem parsePacket_opC_zero {fuel p : Nat} {v : Version} {y : TypeId} {rest : List Bit} (hy : y ≠ 4)
    (h : bs.drop p = opCBits y v 0 ++ rest) :
    parsePacket bs (fuel + 2) p = .ok (.operator v y .nil, p + 18) := by
  rw [opCBits, List.append_assoc] at h
  obtain ⟨hver, htid, hflag, hlimit⟩ := rd_operator_fields (f := 1) (x := (0 : CountField)) h
  simp only [parsePacket, hver, htid, hflag, hlimit, Ref.bind, if_neg hy]
  simp [byCount, Packets.length]

/-- Settles O54: the code is read field by field, and its limit is reached at once; the values are those of no
subpackets. -/
theorem emptyOperatorsParse : Obligations.EmptyOperatorsParse := by
  intro v y front back fuel hy
  have hdrop (code : List Bit) : (front ++ code ++ back).drop front.length = code ++ back := by simp
  refine ⟨parsePacket_opL_zero hy (hdrop _), parsePacket_opC_zero hy (hdrop _), ?sum, ?empty, ?arity⟩
  case sum =>
    rintro rfl
    rfl
  case empty => rintro (rfl | rfl | rfl) <;> rfl
  case arity => rintro (rfl | rfl | rfl) <;> rfl

/-! ## The faults PARSE_PACKET raises (R155, R202, R203) -/

/-- The two faults of the parser. -/
def IsParserFault (f : FaultRecord) : Prop :=
  (∃ n m p, f = .unexpectedEof n m p) ∨ ∃ e a p, f = .overconsumedSubpackets e a p

/-- A computation that raises no other fault. -/
def RaisesParserFaults {α : Type} (r : Ref α) : Prop := ∀ f, r = .raised f → IsParserFault f

section
variable {α β : Type}

theorem RaisesParserFaults.ok (a : α) : RaisesParserFaults (.ok a) := nofun

theorem RaisesParserFaults.outOfFuel : RaisesParserFaults (.outOfFuel : Ref α) := nofun

theorem RaisesParserFaults.overconsumed (e a p : Nat) :
    RaisesParserFaults (.raised (.overconsumedSubpackets e a p) : Ref α) := by
  rintro f ⟨⟩
  exact .inr ⟨e, a, p, rfl⟩

theorem RaisesParserFaults.ite {c : Prop} [Decidable c] {r r' : Ref α} (h : RaisesParserFaults r)
    (h' : RaisesParserFaults r') : RaisesParserFaults (if c then r else r') := by
  split
  · exact h
  · exact h'

theorem RaisesParserFaults.bind {r : Ref α} {k : α → Ref β} (h : RaisesParserFaults r)
    (hk : ∀ a, RaisesParserFaults (k a)) : RaisesParserFaults (r.bind k) := by
  cases r with
  | ok a => exact hk a
  | raised f =>
    rintro f' ⟨⟩
    exact h f rfl
  | outOfFuel => nofun

end

theorem raisesParserFaults_rd (p w : Nat) : RaisesParserFaults (rd bs p w) := by
  unfold rd
  split
  · rintro f ⟨⟩
    exact .inl ⟨_, _, _, rfl⟩
  · exact .ok _

/-- The four functions of R136 under one recursion bound. -/
structure ParseRaisesParserFaults (bs : List Bit) (fuel : Nat) : Prop where
  packet : ∀ p, RaisesParserFaults (parsePacket bs fuel p)
  groups : ∀ p acc, RaisesParserFaults (litGroups bs fuel p acc)
  length : ∀ p mark n kids, RaisesParserFaults (byLength bs fuel p mark n kids)
  count : ∀ p c kids, RaisesParserFaults (byCount bs fuel p c kids)

section
variable {fuel : Nat} (ih : ParseRaisesParserFaults bs fuel)
include ih

theorem ParseRaisesParserFaults.packet_succ (p : Nat) : RaisesParserFaults (parsePacket bs (fuel + 1) p) := by
  simp only [parsePacket]
  refine (raisesParserFaults_rd _ _).bind fun ver => (raisesParserFaults_rd _ _).bind fun tid => ?_
  refine .ite ((ih.groups _ _).bind fun value => .ok _) ?_
  refine (raisesParserFaults_rd _ _).bind fun i => .ite ?_ ?_
  · exact (raisesParserFaults_rd _ _).bind fun n => (ih.length _ _ _ _).bind fun kids => .ok _
  · exact (raisesParserFaults_rd _ _).bind fun c => (ih.count _ _ _).bind fun kids => .ok _

theorem ParseRaisesParserFaults.groups_succ (p acc : Nat) :
    RaisesParserFaults (litGroups bs (fuel + 1) p acc) := by
  simp only [litGroups]
  exact (raisesParserFaults_rd _ _).bind fun f => (raisesParserFaults_rd _ _).bind fun g =>
    .ite (ih.groups _ _) (.ok _)

theorem ParseRaisesParserFaults.length_succ (p mark n : Nat) (kids : Packets) :
    RaisesParserFaults (byLength bs (fuel + 1) p mark n kids) := by
  simp only [byLength]
  exact .ite (.ok _) (.ite (.overconsumed _ _ _) ((ih.packet _).bind fun k => ih.length _ _ _ _))

theorem ParseRaisesParserFaults.count_succ (p c : Nat) (kids : Packets) :
    RaisesParserFaults (byCount bs (fuel + 1) p c kids) := by
  simp only [byCount]
  exact .ite (.ok _) ((ih.packet _).bind fun k => ih.count _ _ _)

end

theorem parseRaisesParserFaults (bs : List Bit) (fuel : Nat) : ParseRaisesParserFaults bs fuel := by
  induction fuel with
  | zero =>
    exact ⟨fun _ => .outOfFuel, fun _ _ => .outOfFuel, fun _ _ _ _ => .outOfFuel, fun _ _ _ => .outOfFuel⟩
  | succ fuel ih => exact ⟨ih.packet_succ, ih.groups_succ, ih.length_succ, ih.count_succ⟩

/-! ## A line cut short (R155) -/

/-- The front of a line that decodes is itself decoded, to the front of the bits (R112). -/
theorem decodeFrom_append_eq_ok {i : Nat} {front back : List CharCode} (h : decodeFrom i (front ++ back) = .ok bs) :
    ∃ bs₁ bs₂, decodeFrom i front = .ok bs₁ ∧ bs = bs₁ ++ bs₂ := by
  induction front generalizing i bs with
  | nil => exact ⟨[], bs, rfl, rfl⟩
  | cons c front ih =>
    obtain ⟨v, bs', hv, hrest, rfl⟩ := decodeFrom_cons_eq_ok.1 h
    obtain ⟨bs₁, bs₂, hfront, rfl⟩ := ih hrest
    exact ⟨expand v ++ bs₁, bs₂, decodeFrom_cons_eq_ok.2 ⟨v, bs₁, hv, hfront, rfl⟩, by simp⟩

theorem parseLine_of_decodeLine {line : List CharCode} (h : decodeLine line = .ok bs) :
    parseLine line = parsePacket bs (enoughFuel bs) 0 := by
  simp only [parseLine, h]

theorem decodeLine_of_parseLine_ok {line : List CharCode} {a : Packet × Nat} (h : parseLine line = .ok a) :
    ∃ bs, decodeLine line = .ok bs := by
  cases hdecode : decodeLine line with
  | ok bs => exact ⟨bs, rfl⟩
  | error f => simp [parseLine, hdecode] at h

/-- What is parsed from the front of the bits is parsed from all of them: the bits behind it play no part, nor does the
recursion bound. -/
theorem parsePacket_append_unique {bs₁ bs₂ : List Bit} {r r' : Packet} {q q' : Nat}
    (h : parsePacket bs₁ (enoughFuel bs₁) 0 = .ok (r, q))
    (h' : parsePacket (bs₁ ++ bs₂) (enoughFuel (bs₁ ++ bs₂)) 0 = .ok (r', q')) : r = r' ∧ q = q' := by
  obtain ⟨-, hq, -⟩ := parsePacket_bounded _ _ _ _ _ h
  obtain ⟨-, hsame⟩ := (parseReadsOnlyBehind bs₁ _).packet 0 r q h
  have hlonger : SameUpTo q bs₁ (bs₁ ++ bs₂) := ⟨List.take_append_of_le_length hq, by simp; omega⟩
  exact parsePacket_ok_unique (hsame _ hlonger) h'

/-- Settles O56: the shorter line decodes too; where its packet is complete it is the longer line's, and where it is not
the parser raises. -/
theorem truncationNeverChangesTheTree : Obligations.TruncationNeverChangesTheTree := by
  intro front back r q h
  obtain ⟨bs, hdecode⟩ := decodeLine_of_parseLine_ok h
  obtain ⟨bs₁, bs₂, hfront, rfl⟩ := decodeFrom_append_eq_ok hdecode
  rw [parseLine_of_decodeLine hdecode] at h
  rw [parseLine_of_decodeLine hfront]
  obtain ⟨r', q', hshort⟩ | ⟨f, hshort⟩ := parsePacket_ok_or_raised bs₁
  · obtain ⟨rfl, rfl⟩ := parsePacket_append_unique hshort h
    exact .inl hshort
  · obtain ⟨n, m, p, rfl⟩ | ⟨e, a, p, rfl⟩ := (parseRaisesParserFaults bs₁ _).packet 0 f hshort
    · exact .inr (.inl ⟨n, m, p, hshort⟩)
    · exact .inr (.inr ⟨e, a, p, hshort⟩)

end Sys2Proof.Machine
end

section
/-! SUPPORT. The frame of the 15 packet instructions (R27 to R38, R236): which registers each state rule may write, with
every field read from BITMEM or delivered as an operand. -/

namespace Sys2Proof.Machine

variable {s t : State}

/-- What a packet instruction may write, by the state it acts in; every register not named is as it was. Where a field
is read FAULT may be written, and only together with Faulted. -/
inductive PacketWrites (s : State) : State → Prop
  /-- A header is read (R137). -/
  | header {p : Nat} {v : Version} {y : TypeId} {a : Nat} {x : ParserState} {f : Option FaultRecord}
    (hst : s.st = .readingHeader) (hfault : x ≠ .faulted → f = s.fault) :
    PacketWrites s { s with pos := p, ver := v, tid := y, acc := a, st := x, fault := f }
  /-- A literal's group is read (R138). -/
  | group {p : Nat} {c : Flag} {a : Nat} {r : Option Packet} {x : ParserState} {f : Option FaultRecord}
    (hst : s.st = .readingLiteralGroup) (hfault : x ≠ .faulted → f = s.fault) :
    PacketWrites s { s with pos := p, cflag := c, acc := a, ret := r, st := x, fault := f }
  /-- The flag that selects an operator's form is read (R139). -/
  | lengthType {p : Nat} {i : Flag} {x : ParserState} {f : Option FaultRecord} (hst : s.st = .readingLengthTypeFlag)
    (hfault : x ≠ .faulted → f = s.fault) : PacketWrites s { s with pos := p, ltid := i, st := x, fault := f }
  /-- The limit of a frame is read and the frame is opened (R140, R142). -/
  | limit {m : Mode} {p : Nat} {k : List Frame} {x : ParserState} {f : Option FaultRecord} (hst : s.st = prefixState m)
    (hfault : x ≠ .faulted → f = s.fault) : PacketWrites s { s with pos := p, stack := k, st := x, fault := f }
  /-- The top frame is tested (R141, R143). -/
  | tested {m : Mode} {k : List Frame} {r : Option Packet} {x : ParserState} {f : Option FaultRecord}
    (hst : s.st = resumeState m) (hfault : x ≠ .faulted → f = s.fault) :
    PacketWrites s { s with stack := k, ret := r, st := x, fault := f }
  /-- A completed packet is handed over (R144). -/
  | handedOver {k : List Frame} {r r' : Option Packet} {x : ParserState} (hst : s.st = .done) :
    PacketWrites s { s with stack := k, ret := r, root := r', st := x }
  /-- The back end sets the results (R38). -/
  | results {n v : Option Nat} {e : Option FaultRecord} (hst : s.st = .parseOk) :
    PacketWrites s { s with vsum := n, value := v, efault := e }

/-! ## Each state rule -/

theorem packetWrites_readingHeader {v : Option Version} {y : Option TypeId} (hst : s.st = .readingHeader)
    (h : readingHeader v y s = .next t) : PacketWrites s t := by
  obtain ⟨-, rfl⟩ | ⟨-, v', -, ⟨-, rfl⟩ | ⟨-, y', -, rfl⟩⟩ := readingHeader_next h
  · exact .header hst (absurd rfl)
  · exact .header hst (absurd rfl)
  · unfold afterHeader
    split
    · exact .header hst fun _ => rfl
    · exact .header hst fun _ => rfl

theorem packetWrites_readingLiteralGroup {f : Option Flag} {g : Option Nibble} (hst : s.st = .readingLiteralGroup)
    (h : readingLiteralGroup f g s = .next t) : PacketWrites s t := by
  obtain ⟨-, rfl⟩ | ⟨-, f', -, ⟨-, rfl⟩ | ⟨-, g', -, rfl⟩⟩ := readingLiteralGroup_next h
  · exact .group hst (absurd rfl)
  · exact .group hst (absurd rfl)
  · unfold foldGroup
    split
    · exact .group hst fun _ => rfl
    · exact .group hst fun _ => rfl

theorem packetWrites_readingLengthTypeFlag {i : Option Flag} (hst : s.st = .readingLengthTypeFlag)
    (h : readingLengthTypeFlag i s = .next t) : PacketWrites s t := by
  obtain ⟨-, rfl⟩ | ⟨-, i', -, rfl⟩ := readingLengthTypeFlag_next h
  · exact .lengthType hst (absurd rfl)
  · exact .lengthType hst fun _ => rfl

theorem packetWrites_readingTotalLengthPrefix {n : Option LengthField} (hst : s.st = .readingTotalLengthPrefix)
    (h : readingTotalLengthPrefix n s = .next t) : PacketWrites s t := by
  obtain ⟨-, rfl⟩ | ⟨-, n', -, rfl⟩ := readingTotalLengthPrefix_next h
  · exact .limit (m := .byLength) hst (absurd rfl)
  · exact .limit (m := .byLength) hst fun _ => rfl

theorem packetWrites_readingSubpacketCount {c : Option CountField} (hst : s.st = .readingSubpacketCount)
    (h : readingSubpacketCount c s = .next t) : PacketWrites s t := by
  obtain ⟨-, rfl⟩ | ⟨-, c', -, rfl⟩ := readingSubpacketCount_next h
  · exact .limit (m := .byCount) hst (absurd rfl)
  · exact .limit (m := .byCount) hst fun _ => rfl

theorem packetWrites_parsingSubpacketsByLength (hst : s.st = .parsingSubpacketsByLength)
    (h : parsingSubpacketsByLength s = .next t) : PacketWrites s t := by
  obtain ⟨f, rest, -, -, ⟨-, rfl⟩ | ⟨-, rfl⟩ | ⟨-, rfl⟩⟩ := parsingSubpacketsByLength_next h
  · exact .tested (m := .byLength) hst fun _ => rfl
  · exact .tested (m := .byLength) hst (absurd rfl)
  · exact .tested (m := .byLength) hst fun _ => rfl

theorem packetWrites_parsingSubpacketsByCount (hst : s.st = .parsingSubpacketsByCount)
    (h : parsingSubpacketsByCount s = .next t) : PacketWrites s t := by
  obtain ⟨f, rest, -, ⟨-, rfl⟩ | ⟨-, rfl⟩⟩ := parsingSubpacketsByCount_next h
  · exact .tested (m := .byCount) hst fun _ => rfl
  · exact .tested (m := .byCount) hst fun _ => rfl

theorem packetWrites_done (hst : s.st = .done) (h : done s = .next t) : PacketWrites s t := by
  obtain ⟨p, -, rfl⟩ := done_next h
  unfold handOver
  split
  · exact .handedOver hst
  · exact .handedOver hst

theorem packetWrites_backEnd (hst : s.st = .parseOk) (h : backEnd s = .next t) : PacketWrites s t := by
  obtain ⟨-, p, -, rfl⟩ := backEnd_next h
  unfold setResults
  split
  · exact .results hst
  · exact .results hst

/-! ## The instructions -/

/-- A packet instruction writes what the state rule it runs may write. -/
theorem packetWrites_of_exec {i : Instr} (hformat : i.format ≠ .hexChar) (h : exec i s = .next t) :
    PacketWrites s t := by
  obtain ⟨v, gs, -, -, -, hexec⟩ | ⟨y, v, n, -, -, -, -, hexec⟩ | ⟨y, v, c, -, -, -, -, hexec⟩ := packet_cases hformat
  all_goals rw [hexec] at h
  · obtain ⟨-, ⟨hst, h⟩ | ⟨hst, g, rest, -, h⟩ | ⟨hst, h⟩ | ⟨hst, h⟩⟩ := litTransition_next h
    · exact packetWrites_readingHeader hst h
    · exact packetWrites_readingLiteralGroup hst h
    · exact packetWrites_done hst h
    · exact packetWrites_backEnd hst h
  · obtain ⟨-, ⟨hst, h⟩ | ⟨hst, h⟩ | ⟨hst, h⟩ | ⟨hst, h⟩ | ⟨hst, h⟩ | ⟨hst, h⟩⟩ := opLTransition_next h
    · exact packetWrites_readingHeader hst h
    · exact packetWrites_readingLengthTypeFlag hst h
    · exact packetWrites_readingTotalLengthPrefix hst h
    · exact packetWrites_parsingSubpacketsByLength hst h
    · exact packetWrites_done hst h
    · exact packetWrites_backEnd hst h
  · obtain ⟨-, ⟨hst, h⟩ | ⟨hst, h⟩ | ⟨hst, h⟩ | ⟨hst, h⟩ | ⟨hst, h⟩ | ⟨hst, h⟩⟩ := opCTransition_next h
    · exact packetWrites_readingHeader hst h
    · exact packetWrites_readingLengthTypeFlag hst h
    · exact packetWrites_readingSubpacketCount hst h
    · exact packetWrites_parsingSubpacketsByCount hst h
    · exact packetWrites_done hst h
    · exact packetWrites_backEnd hst h

/-- Settles O37: each register is named by the rules of the states that may write it, and by no other. -/
theorem packetFrame : Obligations.PacketFrame := by
  intro i s t hformat h
  cases packetWrites_of_exec hformat h
  case header hst hfault | group hst hfault | lengthType hst hfault => simpa [hst] using hfault
  case limit m _ _ _ _ hst hfault => cases m <;> simpa [hst, prefixState] using hfault
  case tested m _ _ _ _ hst hfault => cases m <;> simpa [hst, resumeState] using hfault
  case handedOver hst | results hst => simp [hst]

end Sys2Proof.Machine
end

section
/-! SUPPORT. The Evaluator and the VersionSummer (R170 to R187): which test an operator makes and what it does with its
subpackets' values, the results a packet instruction sets in ParseOk, and the two facts about whole trees (R178, R182). -/

namespace Sys2Proof.Machine

variable {s : State} {v : Version} {y : TypeId} {p q : Packet} {ps subs : Packets} {vs : List Nat} {e : FaultRecord}

/-! ## The values of a sequence (R179) -/

@[simp] theorem withValues_ok (vs : List Nat) (k : List Nat → Nat) : withValues (.ok vs) k = .ok (k vs) := rfl

@[simp] theorem withValues_error (e : FaultRecord) (k : List Nat → Nat) : withValues (.error e) k = .error e := rfl

theorem withValues_eq_error {vals : Except FaultRecord (List Nat)} {k : List Nat → Nat} :
    withValues vals k = .error e ↔ vals = .error e := by
  cases vals <;> simp

theorem valuesOf_cons_error (ps : Packets) (h : valueOf p = .error e) : valuesOf (.cons p ps) = .error e := by
  simp only [valuesOf, h]

theorem valuesOf_cons_tail_error {n : Nat} (h : valueOf p = .ok n) (hps : valuesOf ps = .error e) :
    valuesOf (.cons p ps) = .error e := by
  simp only [valuesOf, h, hps]

theorem valuesOf_cons_ok {n : Nat} (h : valueOf p = .ok n) (hps : valuesOf ps = .ok vs) :
    valuesOf (.cons p ps) = .ok (n :: vs) := by
  simp only [valuesOf, h, hps]

/-- All that a sequence's values can be: the first packet's fault, a later one's, or all the values. -/
theorem valuesOf_cons_cases (p : Packet) (ps : Packets) :
    (∃ e, valueOf p = .error e ∧ valuesOf (.cons p ps) = .error e) ∨
      (∃ e, valuesOf ps = .error e ∧ valuesOf (.cons p ps) = .error e) ∨
      ∃ n vs, valuesOf ps = .ok vs ∧ valuesOf (.cons p ps) = .ok (n :: vs) := by
  cases hp : valueOf p with
  | error e => exact .inl ⟨e, rfl, valuesOf_cons_error ps hp⟩
  | ok n =>
    cases hps : valuesOf ps with
    | error e => exact .inr (.inl ⟨e, rfl, valuesOf_cons_tail_error hp hps⟩)
    | ok vs => exact .inr (.inr ⟨n, vs, rfl, valuesOf_cons_ok hp hps⟩)

theorem length_of_valuesOf_ok {subs : Packets} {vs : List Nat} (h : valuesOf subs = .ok vs) :
    vs.length = subs.length := by
  match subs with
  | .nil =>
    cases h
    rfl
  | .cons p ps =>
    obtain ⟨e, -, herror⟩ | ⟨e, -, herror⟩ | ⟨n, ns, hps, hok⟩ := valuesOf_cons_cases p ps
    · cases h.symm.trans herror
    · cases h.symm.trans herror
    · cases h.symm.trans hok
      simp [Packets.length, length_of_valuesOf_ok hps]

/-- The first fault ends the sequence, whatever stands after it (R179, D21). -/
theorem valuesOf_first_error {subs : Packets} {before after : List Packet} (hsubs : subs.toList = before ++ p :: after)
    (hbefore : ∀ q ∈ before, ∃ n, valueOf q = .ok n) (h : valueOf p = .error e) : valuesOf subs = .error e := by
  induction before generalizing subs with
  | nil =>
    cases subs with
    | nil => cases hsubs
    | cons q ps =>
      cases hsubs
      exact valuesOf_cons_error ps h
  | cons b before ih =>
    cases subs with
    | nil => cases hsubs
    | cons q ps =>
      obtain ⟨rfl, hps⟩ := List.cons.inj hsubs
      obtain ⟨hq, hbefore⟩ := List.forall_mem_cons.1 hbefore
      obtain ⟨n, hn⟩ := hq
      exact valuesOf_cons_tail_error hn (ih hps hbefore)

theorem Packets.length_toList (ps : Packets) : ps.toList.length = ps.length := by
  match ps with
  | .nil => rfl
  | .cons p ps => simp [Packets.toList, Packets.length, Packets.length_toList ps]

/-! ## An operator's own test (R171 to R179) -/

/-- The dispatch on `type_id`: type 4 has no value here; SUM makes no test; PRODUCT, MINIMUM and MAXIMUM ask for a
subpacket, the comparisons for two. Behind its test every operator folds the values of all its subpackets. -/
theorem valueOperator_cases (y : TypeId) :
    (y = 4 ∧ ∀ n vals, valueOperator y n vals = .error (.invalidTypeId y)) ∨
      (y = 0 ∧ ∃ k, ∀ n vals, valueOperator y n vals = withValues vals k) ∨
      ((y = 1 ∨ y = 2 ∨ y = 3) ∧ ∃ k, ∀ n vals,
        valueOperator y n vals = if n = 0 then .error (.emptySubpackets y) else withValues vals k) ∨
      ((y = 5 ∨ y = 6 ∨ y = 7) ∧ ∃ k, ∀ n vals,
        valueOperator y n vals = if n = 2 then withValues vals k else .error (.wrongArity y n)) := by
  have htypes : y = 4 ∨ y = 0 ∨ (y = 1 ∨ y = 2 ∨ y = 3) ∨ (y = 5 ∨ y = 6 ∨ y = 7) := by
    revert y
    decide
  rcases htypes with rfl | rfl | hy | hy
  · exact .inl ⟨rfl, fun _ _ => rfl⟩
  · exact .inr (.inl ⟨rfl, _, fun _ _ => rfl⟩)
  · refine .inr (.inr (.inl ⟨hy, ?_⟩))
    rcases hy with rfl | rfl | rfl <;> exact ⟨_, fun _ _ => rfl⟩
  · refine .inr (.inr (.inr ⟨hy, ?_⟩))
    rcases hy with rfl | rfl | rfl <;> exact ⟨_, fun _ _ => rfl⟩

/-- Where the operator's own test passes, a fault among its subpackets is its fault. -/
theorem valueOperator_of_error {n : Nat} (hy : y ≠ 4) (hsome : n ≠ 0) (htwo : y = 5 ∨ y = 6 ∨ y = 7 → n = 2) :
    valueOperator y n (.error e) = .error e := by
  obtain ⟨h4, -⟩ | ⟨-, k, hsum⟩ | ⟨-, k, hfold⟩ | ⟨hcmp, k, hpair⟩ := valueOperator_cases y
  · exact absurd h4 hy
  · rw [hsum, withValues_error]
  · rw [hfold, if_neg hsome, withValues_error]
  · rw [hpair, if_pos (htwo hcmp), withValues_error]

/-- A comparison of any number but two faults whatever its subpackets give (R175, D21). -/
theorem valueOperator_wrongArity {n : Nat} (vals : Except FaultRecord (List Nat)) (hy : y = 5 ∨ y = 6 ∨ y = 7)
    (hn : n ≠ 2) : valueOperator y n vals = .error (.wrongArity y n) := by
  rcases hy with rfl | rfl | rfl <;> exact if_neg hn

/-- An operator of another type than 4 gives InvalidTypeId only where a subpacket does. -/
theorem valueOperator_ne_invalidTypeId {n : Nat} {vals : Except FaultRecord (List Nat)} {z : TypeId} (hy : y ≠ 4)
    (hvals : vals ≠ .error (.invalidTypeId z)) : valueOperator y n vals ≠ .error (.invalidTypeId z) := by
  obtain ⟨h4, -⟩ | ⟨-, k, hsum⟩ | ⟨-, k, hfold⟩ | ⟨-, k, hpair⟩ := valueOperator_cases y
  · exact absurd h4 hy
  · rwa [hsum, ne_eq, withValues_eq_error]
  · rw [hfold]
    split
    · simp
    · rwa [ne_eq, withValues_eq_error]
  · rw [hpair]
    split
    · rwa [ne_eq, withValues_eq_error]
    · simp

/-- Settles O28: the operator's own test passes and hands on the first fault among the values, or it fails before any
value is looked at. -/
theorem firstFaultingSubpacketIsReported : Obligations.FirstFaultingSubpacketIsReported := by
  refine ⟨fun v y subs before after p e hy hsubs hbefore hp htwo => ?_, fun v y subs hy hn => ?_⟩
  · have hsome : subs.length ≠ 0 := by
      rw [← Packets.length_toList, hsubs]
      simp
    rw [valueOf, valuesOf_first_error hsubs hbefore hp]
    exact valueOperator_of_error hy hsome htwo
  · exact valueOperator_wrongArity _ hy hn

/-! ## Type 4 under an Operator body (R178) -/

mutual
/-- By recursion on the tree: in a typed tree no operator has type 4. -/
theorem valueOf_ne_invalidTypeId {p : Packet} {z : TypeId} (h : p.typed = true) :
    valueOf p ≠ .error (.invalidTypeId z) := by
  match p with
  | .literal v y x => simp [valueOf]
  | .operator v y subs =>
    obtain ⟨hy, hsubs⟩ : y ≠ 4 ∧ subs.typed = true := by simpa [Packet.typed] using h
    exact valueOperator_ne_invalidTypeId hy (valuesOf_ne_invalidTypeId hsubs)

/-- The same of the first fault among a typed sequence. -/
theorem valuesOf_ne_invalidTypeId {ps : Packets} {z : TypeId} (h : ps.typed = true) :
    valuesOf ps ≠ .error (.invalidTypeId z) := by
  match ps with
  | .nil => simp [valuesOf]
  | .cons p ps =>
    obtain ⟨hp, hps⟩ : p.typed = true ∧ ps.typed = true := by simpa [Packets.typed] using h
    intro hz
    obtain ⟨e, he, hcons⟩ | ⟨e, he, hcons⟩ | ⟨n, vs, -, hcons⟩ := valuesOf_cons_cases p ps
    · cases hcons.symm.trans hz
      exact valueOf_ne_invalidTypeId hp he
    · cases hcons.symm.trans hz
      exact valuesOf_ne_invalidTypeId hps he
    · cases hcons.symm.trans hz
end

/-- What PARSE gives for a line takes 11 of its bits for each packet of the tree, and the tree is typed (R34 a, R136). -/
theorem parseLine_bounded {line : List CharCode} {r : Packet} {q : Nat} (h : parseLine line = .ok (r, q)) :
    11 * packetCount r ≤ 4 * line.length ∧ r.typed = true := by
  obtain ⟨bs, hdecode⟩ := decodeLine_of_parseLine_ok h
  rw [parseLine_of_decodeLine hdecode] at h
  obtain ⟨hcount, hq, htyped⟩ := parsePacket_bounded bs _ 0 q r h
  have hlen : bs.length = 4 * line.length := length_of_decodeFrom_ok hdecode
  exact ⟨by omega, htyped⟩

/-- Settles O29: the parser gives typed trees only. -/
theorem invalidTypeIdIsUnreachable : Obligations.InvalidTypeIdIsUnreachable := by
  refine ⟨fun line r q y h => ?line, fun p y h => valueOf_ne_invalidTypeId h, fun v subs => rfl⟩
  case line =>
    obtain ⟨-, htyped⟩ := parseLine_bounded h
    exact valueOf_ne_invalidTypeId htyped

/-! ## The version sum (R181, R182) -/

theorem version_le_seven (v : Version) : v.toNat ≤ 7 := Nat.le_of_lt_succ v.isLt

mutual
theorem vsumOf_le (p : Packet) : vsumOf p ≤ 7 * packetCount p := by
  match p with
  | .literal v _ _ => exact version_le_seven v
  | .operator v _ subs =>
    have hv := version_le_seven v
    have hsubs := vsumAll_le subs
    simp only [vsumOf, packetCount]
    omega

theorem vsumAll_le (ps : Packets) : vsumAll ps ≤ 7 * packetCountAll ps := by
  match ps with
  | .nil => exact le_rfl
  | .cons p ps =>
    have hp := vsumOf_le p
    have hps := vsumAll_le ps
    simp only [vsumAll, packetCountAll]
    omega
end

/-- Settles O30: every packet adds a 3-bit version, and a line has room for one packet in 11 bits. -/
theorem versionSumIsBounded : Obligations.VersionSumIsBounded := by
  refine ⟨vsumOf_le, fun line r q h => ?_⟩
  obtain ⟨hcount, -⟩ := parseLine_bounded h
  have hsum := vsumOf_le r
  omega

/-! ## The value of each operator, its subpackets' values given (R171 to R177) -/

theorem valueOf_sum (v : Version) (h : valuesOf subs = .ok vs) : valueOf (.operator v 0 subs) = .ok vs.sum := by
  change valueSum (valuesOf subs) = _
  rw [h]
  rfl

theorem length_ne_zero_of_valuesOf_ok (h : valuesOf subs = .ok vs) (hne : vs ≠ []) : subs.length ≠ 0 := by
  rw [← length_of_valuesOf_ok h]
  exact mt List.length_eq_zero_iff.1 hne

theorem valueOf_product (v : Version) (h : valuesOf subs = .ok vs) (hne : vs ≠ []) :
    valueOf (.operator v 1 subs) = .ok vs.prod := by
  change valueProduct subs.length (valuesOf subs) = _
  rw [valueProduct, if_neg (length_ne_zero_of_valuesOf_ok h hne), h, withValues_ok]

theorem valueOf_minimum (v : Version) (h : valuesOf subs = .ok vs) (hne : vs ≠ []) :
    valueOf (.operator v 2 subs) = .ok (leastOf vs) := by
  change valueMinimum subs.length (valuesOf subs) = _
  rw [valueMinimum, if_neg (length_ne_zero_of_valuesOf_ok h hne), h, withValues_ok]

theorem valueOf_maximum (v : Version) (h : valuesOf subs = .ok vs) (hne : vs ≠ []) :
    valueOf (.operator v 3 subs) = .ok (greatestOf vs) := by
  change valueMaximum subs.length (valuesOf subs) = _
  rw [valueMaximum, if_neg (length_ne_zero_of_valuesOf_ok h hne), h, withValues_ok]

theorem leastOf_mem_and_le (hne : vs ≠ []) : leastOf vs ∈ vs ∧ ∀ x ∈ vs, leastOf vs ≤ x := by
  obtain ⟨x, xs, rfl⟩ := List.exists_cons_of_ne_nil hne
  exact List.min?_eq_some_iff.1 List.min?_cons'

theorem greatestOf_mem_and_ge (hne : vs ≠ []) : greatestOf vs ∈ vs ∧ ∀ x ∈ vs, x ≤ greatestOf vs := by
  obtain ⟨x, xs, rfl⟩ := List.exists_cons_of_ne_nil hne
  exact List.max?_eq_some_iff.1 List.max?_cons'

theorem valuesOf_pair {a b : Nat} (ha : valueOf p = .ok a) (hb : valueOf q = .ok b) :
    valuesOf (.cons p (.cons q .nil)) = .ok [a, b] := valuesOf_cons_ok ha (valuesOf_cons_ok hb rfl)

section
variable {a b : Nat} (ha : valueOf p = .ok a) (hb : valueOf q = .ok b)
include ha hb

/-- A comparison of two subpackets with values is the truth value of its relation (R187). -/
theorem valueComparison_pair (y : TypeId) (R : Nat → Nat → Prop) [DecidableRel R] :
    valueComparison y (fun a b => decide (R a b)) 2 (valuesOf (.cons p (.cons q .nil))) =
      .ok (if R a b then 1 else 0) := by
  simp [valueComparison, valuesOf_pair ha hb, truth]

theorem valueOf_gt (v : Version) :
    valueOf (.operator v 5 (.cons p (.cons q .nil))) = .ok (if a > b then 1 else 0) :=
  valueComparison_pair ha hb 5 fun a b => b < a

theorem valueOf_lt (v : Version) :
    valueOf (.operator v 6 (.cons p (.cons q .nil))) = .ok (if a < b then 1 else 0) :=
  valueComparison_pair ha hb 6 fun a b => a < b

theorem valueOf_eq (v : Version) :
    valueOf (.operator v 7 (.cons p (.cons q .nil))) = .ok (if a = b then 1 else 0) :=
  valueComparison_pair ha hb 7 fun a b => a = b

end

/-! ## The results in ParseOk (R38, R181, R183) -/

/-- In ParseOk a current packet acts as the back end. -/
theorem exec_parseOk {i : Instr} (hv : i.version = some v) (hy : i.typeId = some y)
    (hcurrent : isCurrent v y s = true) (hst : s.st = .parseOk) : exec i s = backEnd s := by
  obtain ⟨v', gs, -, hy', hv', hexec⟩ | ⟨y', v', n, -, -, hy', hv', hexec⟩ | ⟨y', v', c, -, -, hy', hv', hexec⟩ :=
    packet_cases (format_ne_hexChar hv)
  all_goals
    cases hy'.symm.trans hy
    cases hv'.symm.trans hv
    rw [hexec]
  · rw [litTransition.eq_def, if_pos hcurrent, hst]
  · rw [opLTransition, if_pos hcurrent, hst]
  · rw [opCTransition, if_pos hcurrent, hst]

theorem backEnd_eq (hvsum : s.vsum = none) (hroot : s.root = some p) : backEnd s = .next (setResults p s) := by
  simp [backEnd, hvsum, hroot]

theorem setResults_of_ok {x : Nat} (h : valueOf p = .ok x) :
    setResults p s = { s with vsum := some (vsumOf p), value := some x, efault := none } := by
  simp only [setResults, h]
  rfl

/-- An operator in ROOT that has a value: its instruction sets the version sum and that value. -/
theorem exec_operator_value {i : Instr} {x : Nat} (hv : i.version = some v) (hy : i.typeId = some y)
    (hst : s.st = .parseOk) (hvsum : s.vsum = none) (hroot : s.root = some (.operator v y subs))
    (hvalue : valueOf (.operator v y subs) = .ok x) :
    exec i s = .next { s with vsum := some (v.toNat + vsumAll subs), value := some x, efault := none } := by
  have hcurrent : isCurrent v y s = true := by simp [isCurrent, hst, hroot, Packet.version, Packet.typeId]
  rw [exec_parseOk hv hy hcurrent hst, backEnd_eq hvsum hroot, setResults_of_ok hvalue, vsumOf]

/-- Settles O25: the instruction sets the value of its type. -/
theorem arithmeticPacketsEvaluate : Obligations.ArithmeticPacketsEvaluate := by
  intro i v y subs vs s hv hy hst hvsum hroot hvals
  refine ⟨?sum, ?product, ?minimum, ?maximum⟩
  case sum =>
    rintro rfl
    exact exec_operator_value hv hy hst hvsum hroot (valueOf_sum v hvals)
  case product =>
    rintro rfl hne
    exact exec_operator_value hv hy hst hvsum hroot (valueOf_product v hvals hne)
  case minimum =>
    rintro rfl hne
    obtain ⟨hmem, hle⟩ := leastOf_mem_and_le hne
    exact ⟨_, hmem, hle, exec_operator_value hv hy hst hvsum hroot (valueOf_minimum v hvals hne)⟩
  case maximum =>
    rintro rfl hne
    obtain ⟨hmem, hge⟩ := greatestOf_mem_and_ge hne
    exact ⟨_, hmem, hge, exec_operator_value hv hy hst hvsum hroot (valueOf_maximum v hvals hne)⟩

/-- Settles O26: the instruction sets the truth value of its relation. -/
theorem comparisonPacketsEvaluate : Obligations.ComparisonPacketsEvaluate := by
  intro i v y p q a b s hv hy hst hvsum hroot ha hb
  refine ⟨?gt, ?lt, ?eq⟩
  case gt =>
    rintro rfl
    exact exec_operator_value hv hy hst hvsum hroot (valueOf_gt ha hb v)
  case lt =>
    rintro rfl
    exact exec_operator_value hv hy hst hvsum hroot (valueOf_lt ha hb v)
  case eq =>
    rintro rfl
    exact exec_operator_value hv hy hst hvsum hroot (valueOf_eq ha hb v)

end Sys2Proof.Machine
end

section
/-! SUPPORT. The faults (R201 to R206) and the way out of them (R213, R214, R231): what a fault record in FAULT says of the
state that raised it, the Evaluator's own two faults in EFAULT, and START, which leaves nothing of the line before. -/

namespace Sys2Proof.Machine

variable {s t : State}

/-! ## What FAULT holds (R201, R202, R203) -/

theorem faultRecordInv_of_none (h : s.fault = none) : FaultRecordInv s := by
  intro f hf
  cases h.symm.trans hf

/-- A read raises what it asked for, what is left, and where; what is left is less than the widest field (R202). -/
theorem faultRecordInv_eofRaised {w : Nat} (hw : w = 1 ∨ w = 3 ∨ w = 4 ∨ w = 11 ∨ w = 15) (hshort : remaining s < w) :
    FaultRecordInv (eofRaised w s) := by
  rintro _ ⟨⟩
  exact ⟨hw, hshort, by omega, rfl, rfl⟩

theorem faultRecordInv_malformedHex {c : CharCode} (hc : s.input[s.ci]? = some c) (hv : hexVal c = none) :
    FaultRecordInv (raise (.malformedHex c s.ci) s) := by
  rintro _ ⟨⟩
  exact ⟨hc, hv, rfl⟩

theorem faultRecordInv_overconsumed {f : Frame} (hover : f.limit < s.pos - f.mark) :
    FaultRecordInv (raise (.overconsumedSubpackets f.limit (s.pos - f.mark) s.pos) s) := by
  rintro _ ⟨⟩
  exact ⟨hover, Nat.sub_le _ _, rfl⟩

@[simp] theorem afterHeader_fault (v : Version) (y : TypeId) : (afterHeader v y s).fault = s.fault := by
  unfold afterHeader
  split <;> rfl

@[simp] theorem foldGroup_fault (f : Flag) (g : Nibble) : (foldGroup f g s).fault = s.fault := by
  unfold foldGroup
  split <;> rfl

@[simp] theorem handOver_fault (p : Packet) : (handOver p s).fault = s.fault := by
  unfold handOver
  split <;> rfl

section
variable (hnone : s.fault = none)
include hnone

theorem faultRecordInv_loadingStep (h : loadingStep s = .next t) : FaultRecordInv t := by
  obtain ⟨-, rfl⟩ | ⟨c, hc, ⟨hv, rfl⟩ | ⟨v, -, rfl⟩⟩ := loadingStep_next h
  · exact faultRecordInv_of_none hnone
  · exact faultRecordInv_malformedHex hc hv
  · exact faultRecordInv_of_none hnone

theorem faultRecordInv_readingHeader (h : readingHeader none none s = .next t) : FaultRecordInv t := by
  obtain ⟨hshort, rfl⟩ | ⟨-, v, -, ⟨hshort, rfl⟩ | ⟨-, y, -, rfl⟩⟩ := readingHeader_next h
  · exact faultRecordInv_eofRaised (by decide) hshort
  · exact faultRecordInv_eofRaised (by decide) (by simp [remaining] at hshort ⊢; omega)
  · exact faultRecordInv_of_none (by simpa using hnone)

theorem faultRecordInv_readingLiteralGroup (h : readingLiteralGroup none none s = .next t) : FaultRecordInv t := by
  obtain ⟨hshort, rfl⟩ | ⟨-, f, -, ⟨hshort, rfl⟩ | ⟨-, g, -, rfl⟩⟩ := readingLiteralGroup_next h
  · exact faultRecordInv_eofRaised (by decide) hshort
  · exact faultRecordInv_eofRaised (by decide) (by simp [remaining] at hshort ⊢; omega)
  · exact faultRecordInv_of_none (by simpa using hnone)

theorem faultRecordInv_readingLengthTypeFlag (h : readingLengthTypeFlag none s = .next t) : FaultRecordInv t := by
  obtain ⟨hshort, rfl⟩ | ⟨-, i, -, rfl⟩ := readingLengthTypeFlag_next h
  · exact faultRecordInv_eofRaised (by decide) hshort
  · exact faultRecordInv_of_none hnone

theorem faultRecordInv_readingTotalLengthPrefix (h : readingTotalLengthPrefix none s = .next t) : FaultRecordInv t := by
  obtain ⟨hshort, rfl⟩ | ⟨-, n, -, rfl⟩ := readingTotalLengthPrefix_next h
  · exact faultRecordInv_eofRaised (by decide) hshort
  · exact faultRecordInv_of_none hnone

theorem faultRecordInv_readingSubpacketCount (h : readingSubpacketCount none s = .next t) : FaultRecordInv t := by
  obtain ⟨hshort, rfl⟩ | ⟨-, c, -, rfl⟩ := readingSubpacketCount_next h
  · exact faultRecordInv_eofRaised (by decide) hshort
  · exact faultRecordInv_of_none hnone

theorem faultRecordInv_parsingSubpacketsByLength (h : parsingSubpacketsByLength s = .next t) : FaultRecordInv t := by
  obtain ⟨f, rest, -, -, ⟨-, rfl⟩ | ⟨hover, rfl⟩ | ⟨-, rfl⟩⟩ := parsingSubpacketsByLength_next h
  · exact faultRecordInv_of_none hnone
  · exact faultRecordInv_overconsumed hover
  · exact faultRecordInv_of_none hnone

theorem faultRecordInv_parsingSubpacketsByCount (h : parsingSubpacketsByCount s = .next t) : FaultRecordInv t := by
  obtain ⟨f, rest, -, ⟨-, rfl⟩ | ⟨-, rfl⟩⟩ := parsingSubpacketsByCount_next h
  · exact faultRecordInv_of_none hnone
  · exact faultRecordInv_of_none hnone

theorem faultRecordInv_done (h : done s = .next t) : FaultRecordInv t := by
  obtain ⟨p, -, rfl⟩ := done_next h
  exact faultRecordInv_of_none (by simpa using hnone)

theorem faultRecordInv_backEnd (h : backEnd s = .next t) : FaultRecordInv t := by
  obtain ⟨-, p, -, rfl⟩ := backEnd_next h
  exact faultRecordInv_of_none (by simpa using hnone)

/-- Every state rule leaves FAULT empty or raises a precise record. -/
theorem faultRecordInv_sequencer (h : sequencer s = .next t) : FaultRecordInv t := by
  unfold sequencer at h
  cases hst : s.st <;> simp only [hst] at h
  case idle | faulted => cases h
  case loading => exact faultRecordInv_loadingStep hnone h
  case readingHeader => exact faultRecordInv_readingHeader hnone h
  case readingLiteralGroup => exact faultRecordInv_readingLiteralGroup hnone h
  case readingLengthTypeFlag => exact faultRecordInv_readingLengthTypeFlag hnone h
  case readingTotalLengthPrefix => exact faultRecordInv_readingTotalLengthPrefix hnone h
  case parsingSubpacketsByLength => exact faultRecordInv_parsingSubpacketsByLength hnone h
  case readingSubpacketCount => exact faultRecordInv_readingSubpacketCount hnone h
  case parsingSubpacketsByCount => exact faultRecordInv_parsingSubpacketsByCount hnone h
  case done => exact faultRecordInv_done hnone h
  case parseOk => exact faultRecordInv_backEnd hnone h

end

/-- A state rule that goes on starts with FAULT empty: FAULT is set in Faulted only, which has no rule (R37, R157). -/
theorem ResultInv.fault_eq_none_of_sequencer (hresult : ResultInv s) (h : sequencer s = .next t) : s.fault = none := by
  have hst : s.st ≠ .faulted := by
    intro hst
    rw [sequencer, hst] at h
    cases h
  simpa [hst] using hresult.fault

/-- Settles O52: RESET and START empty FAULT, and a state rule finds it empty and writes it, if at all, with what the
rule's own test says. -/
theorem faultRecordsArePrecise : Obligations.FaultRecordsArePrecise := by
  intro s t hresult _ hstep
  obtain rfl | ⟨line, rfl⟩ | ⟨-, hseq⟩ := step_next hstep
  · exact faultRecordInv_of_none rfl
  · exact faultRecordInv_of_none rfl
  · exact faultRecordInv_sequencer (hresult.fault_eq_none_of_sequencer hseq) hseq

/-! ## What EFAULT holds (R205, R206) -/

section
variable {v : Version} {y : TypeId} {subs : Packets} {e : FaultRecord}

theorem setResults_of_error {p : Packet} (h : valueOf p = .error e) :
    setResults p s = { s with vsum := some (vsumOf p), value := none, efault := some e } := by
  simp only [setResults, h]
  rfl

/-- An operator in ROOT that has no value: its instruction sets the version sum and the fault. -/
theorem exec_operator_error {i : Instr} (hv : i.version = some v) (hy : i.typeId = some y)
    (hst : s.st = .parseOk) (hvsum : s.vsum = none) (hroot : s.root = some (.operator v y subs))
    (herror : valueOf (.operator v y subs) = .error e) :
    exec i s = .next { s with vsum := some (v.toNat + vsumAll subs), value := none, efault := some e } := by
  have hcurrent : isCurrent v y s = true := by simp [isCurrent, hst, hroot, Packet.version, Packet.typeId]
  rw [exec_parseOk hv hy hcurrent hst, backEnd_eq hvsum hroot, setResults_of_error herror, vsumOf]

theorem valueOf_emptySubpackets (v : Version) (hy : y = 1 ∨ y = 2 ∨ y = 3) :
    valueOf (.operator v y .nil) = .error (.emptySubpackets y) := by
  rcases hy with rfl | rfl | rfl <;> rfl

theorem valueOf_wrongArity (v : Version) (hy : y = 5 ∨ y = 6 ∨ y = 7) (hn : subs.length ≠ 2) :
    valueOf (.operator v y subs) = .error (.wrongArity y subs.length) := valueOperator_wrongArity _ hy hn

end

/-- Settles O27: the operator's own test fails, and SUM makes none; the version sum of no subpackets is the operator's
own version. -/
theorem wrongSubpacketNumberFaults : Obligations.WrongSubpacketNumberFaults := by
  intro i v y subs s hv hy hst hvsum hroot
  refine ⟨?empty, ?arity, ?sum⟩
  case empty =>
    rintro htype rfl
    exact exec_operator_error hv hy hst hvsum hroot (valueOf_emptySubpackets v htype)
  case arity =>
    intro htype hn
    exact exec_operator_error hv hy hst hvsum hroot (valueOf_wrongArity v htype hn)
  case sum =>
    rintro rfl rfl
    exact exec_operator_value hv hy hst hvsum hroot (valueOf_sum (vs := []) v rfl)

/-! ## START (R213, R214, R231) -/

theorem busy_of_halted (h : halted s = true) : busy s = false := by
  obtain hst | hst | ⟨hst, -⟩ := halted_iff.1 h
  · exact busy_eq_false (.inl hst)
  · exact busy_eq_false (.inr (.inr hst))
  · exact busy_eq_false (.inr (.inl hst))

/-- START outside a run is taken, whatever the state: MAX_CHARS is unbounded (R231, D7). -/
theorem step_start {line : List CharCode} (hrequest : s.request = some (.start line)) (hbusy : busy s = false) :
    step s = .next (started line) := by
  rw [step, hrequest]
  exact (startWith_of_not_busy hbusy).trans (if_pos rfl)

/-- Settles O43: the first step of both runs is START, and the state it leaves is made of the line alone. -/
theorem linesAreIndependent : Obligations.LinesAreIndependent := by
  intro s s' line hstart hstart' hhalted hhalted' k
  calc
    run (k + 1) s = run k (started line) := run_succ (step_start hstart (busy_of_halted hhalted))
    _ = run (k + 1) s' := (run_succ (step_start hstart' (busy_of_halted hhalted'))).symm

end Sys2Proof.Machine
end

section
/-! SUPPORT. The host's RESET, from every state, and START, outside a run and during one (R230, R231, R41). -/

namespace Sys2Proof.Machine

variable {s : State} {line : List CharCode}

/-! ## RESET (R230) -/

/-- A waiting RESET is taken whatever ST is, also during a run. -/
theorem step_reset (hrequest : s.request = some .reset) : step s = .next State.reset := by
  rw [step, hrequest]
  rfl

/-- Settles O40: the step leaves `State.reset`, whose registers are R41's column and whose BITMEM lists no bit. -/
theorem resetFromEveryState : Obligations.ResetFromEveryState := by
  intro s hrequest
  exact ⟨State.reset, step_reset hrequest, rfl, rfl, rfl, rfl, rfl, rfl, rfl, rfl, rfl, rfl, rfl, rfl, Memory.read_nil,
    hostView_of_idle rfl⟩

/-! ## START (R231) -/

theorem busy_of_ne (hidle : s.st ≠ .idle) (hparseOk : s.st ≠ .parseOk) (hfaulted : s.st ≠ .faulted) :
    busy s = true := by
  cases hst : s.st <;> simp_all [busy]

/-- START during a run is refused, however long its line is (U7). -/
theorem step_start_of_busy (hrequest : s.request = some (.start line)) (hbusy : busy s = true) :
    step s = .refused .startWhileBusy := by
  rw [step, hrequest]
  exact if_pos hbusy

/-- Settles O41: the twelve states are the three that are not busy, which go to `started line`, and the busy ones. -/
theorem startClearsAndLoads : Obligations.StartClearsAndLoads := by
  intro s line hrequest
  constructor
  · intro hst
    exact ⟨started line, step_start hrequest (busy_eq_false hst), rfl, rfl, rfl, rfl, rfl, rfl, rfl, rfl, rfl, rfl, rfl,
      rfl, rfl, Memory.read_nil⟩
  · intro hidle hparseOk hfaulted
    exact step_start_of_busy hrequest (busy_of_ne hidle hparseOk hfaulted)

end Sys2Proof.Machine
end
